-- ==== Sys2Proof/Word.lean ====
section
/-! DEFINITION. The two data widths of the core (spec/00_scope.md R8: a word is 32 bits and unsigned, a byte is 8 bits)
and the 16-word vector that S, W and OUT are (spec/00_scope.md R6, "state size"). The arithmetic on them stands in
Machine/Bits.lean. -/

namespace Sys2Proof

/-- A word: a value in 0 .. 2^32-1 (R8). -/
abbrev Word := BitVec 32

/-- A byte: a value in 0 .. 255 (R8). -/
abbrev Byte := BitVec 8

/-- A 4x4 matrix of words, row-major: element 4r + c is row r, column c (R6, R110). -/
abbrev Words16 := Vector Word 16

end Sys2Proof
end

