-- ==== Sys2Proof/Syntax.lean ====
section
/-! DEFINITION. The commands: one constructor per row of spec/opcode_table.json (spec/30_encoding.md R303). A command
takes its operands from fixed registers; only QRW names any, by four 4-bit indices (R302). -/

namespace Sys2Proof

/-- The ten commands of R303, in the order of their opcodes. -/
inductive Instr where
  /-- NOP (R491). -/
  | nop
  /-- QR: the quarter round on QA..QD (R403). -/
  | qr
  /-- QRW x, y, z, w: the quarter round on W[x], W[y], W[z], W[w] (R404). -/
  | qrw (x y z w : Fin 16)
  /-- INIT: S from the key, the counter and the nonce (R422). -/
  | init
  /-- COPY: W := S (R443). -/
  | copy
  /-- DROUND: one double round on W (R444). -/
  | dround
  /-- MIX: ten double rounds on W (R445). -/
  | mix
  /-- ADDBACK: OUT := S + W, word by word (R446). -/
  | addback
  /-- BLOCK: the block function (R447). -/
  | block
  /-- XOR: the keystream XOR over DBUF (R473). -/
  | xor
deriving DecidableEq, Repr

end Sys2Proof
end

