-- ==== Sys2Proof/Decode.lean ====
section
/-! DEFINITION. Decoding of the command word, total on all 2^32 words (spec/30_encoding.md R301 to R306), and after it
the encoder (R303, R307) and the opcode table as masks and patterns (spec/opcode_table.json). -/

namespace Sys2Proof

/-- Why a word is no legal command word (R304). The core reports one code for all of them, ILLEGAL_COMMAND. -/
inductive IllegalWord where
  /-- OP is 0xA..0xF. -/
  | reservedOpcode
  /-- RSV0 (bits 7:4) or RSV1 (bits 31:24) is not 0. -/
  | reservedBits
  /-- Bits 23:8 are not 0 and the opcode is not QRW's. -/
  | reservedIndexFields
deriving DecidableEq, Repr

/-- What a word decodes to. -/
inductive Decoded where
  | command (i : Instr)
  | illegal (why : IllegalWord)
deriving DecidableEq, Repr

/-- The command of a decoded word, if it has one. -/
def Decoded.instr? : Decoded → Option Instr
  | .command i => some i
  | .illegal _ => none

/-! The fields of the CMD format (R301). -/

def fieldOp (c : Word) : BitVec 4 := c.extractLsb' 0 4
def fieldRsv0 (c : Word) : BitVec 4 := c.extractLsb' 4 4
def fieldX (c : Word) : BitVec 4 := c.extractLsb' 8 4
def fieldY (c : Word) : BitVec 4 := c.extractLsb' 12 4
def fieldZ (c : Word) : BitVec 4 := c.extractLsb' 16 4
def fieldWI (c : Word) : BitVec 4 := c.extractLsb' 20 4
def fieldRsv1 (c : Word) : BitVec 8 := c.extractLsb' 24 8
/-- Bits [23:8]: reserved for every opcode other than QRW (R301). -/
def fieldIndices (c : Word) : BitVec 16 := c.extractLsb' 8 16

/-- A command without operands: legal when bits [23:8] are 0 (R301, R304). -/
def decodeFixed (c : Word) (i : Instr) : Decoded :=
  if fieldIndices c = 0 then .command i else .illegal .reservedIndexFields

/-- The decoder (R303, R304): strict, every reserved bit must be 0. The indices of QRW are zero-extended (R302). -/
def decode (c : Word) : Decoded :=
  if fieldRsv0 c ≠ 0 ∨ fieldRsv1 c ≠ 0 then .illegal .reservedBits
  else
    match (fieldOp c).toNat with
    | 0x0 => decodeFixed c .nop
    | 0x1 => decodeFixed c .qr
    | 0x2 => .command (.qrw (fieldX c).toFin (fieldY c).toFin (fieldZ c).toFin (fieldWI c).toFin)
    | 0x3 => decodeFixed c .init
    | 0x4 => decodeFixed c .copy
    | 0x5 => decodeFixed c .dround
    | 0x6 => decodeFixed c .mix
    | 0x7 => decodeFixed c .addback
    | 0x8 => decodeFixed c .block
    | 0x9 => decodeFixed c .xor
    | _ => .illegal .reservedOpcode

/-- An index as the bits of a word, before it is shifted to its field. -/
def indexBits (x : Fin 16) : Word := BitVec.ofNat 32 x.val

/-- The encoder: R307's table, QRW as `0x00000002 | x<<8 | y<<12 | z<<16 | w<<20`. -/
def encode : Instr → Word
  | .nop => 0x00000000
  | .qr => 0x00000001
  | .qrw x y z w =>
      0x00000002 ||| (indexBits x <<< 8) ||| (indexBits y <<< 12) ||| (indexBits z <<< 16) ||| (indexBits w <<< 20)
  | .init => 0x00000003
  | .copy => 0x00000004
  | .dround => 0x00000005
  | .mix => 0x00000006
  | .addback => 0x00000007
  | .block => 0x00000008
  | .xor => 0x00000009

/-- One row of spec/opcode_table.json. -/
structure OpcodeRow where
  mnemonic : String
  pattern : Word
  mask : Word
deriving DecidableEq, Repr

/-- A word is a row's when it agrees with the row's pattern on the row's mask. -/
def OpcodeRow.matches (r : OpcodeRow) (c : Word) : Bool := decide (c &&& r.mask = r.pattern)

/-- The rows of spec/opcode_table.json, in its order ("match" is `pattern`). -/
def opcodeTable : List OpcodeRow :=
  [ ⟨"NOP", 0x00000000, 0xFFFFFFFF⟩,
    ⟨"QR", 0x00000001, 0xFFFFFFFF⟩,
    ⟨"QRW", 0x00000002, 0xFF0000FF⟩,
    ⟨"INIT", 0x00000003, 0xFFFFFFFF⟩,
    ⟨"COPY", 0x00000004, 0xFFFFFFFF⟩,
    ⟨"DROUND", 0x00000005, 0xFFFFFFFF⟩,
    ⟨"MIX", 0x00000006, 0xFFFFFFFF⟩,
    ⟨"ADDBACK", 0x00000007, 0xFFFFFFFF⟩,
    ⟨"BLOCK", 0x00000008, 0xFFFFFFFF⟩,
    ⟨"XOR", 0x00000009, 0xFFFFFFFF⟩ ]

/-- A command's mnemonic, as the table spells it (R303). -/
def Instr.mnemonic : Instr → String
  | .nop => "NOP"
  | .qr => "QR"
  | .qrw _ _ _ _ => "QRW"
  | .init => "INIT"
  | .copy => "COPY"
  | .dround => "DROUND"
  | .mix => "MIX"
  | .addback => "ADDBACK"
  | .block => "BLOCK"
  | .xor => "XOR"

/-- The command the decoder reads from a table row's word. A command is one 32-bit word, never split into bytes
(R306, R208: there is no instruction byte order), so the table's bits are the word's; a number that is no `nbits`-bit
number, or no 32-bit one, is no command word. -/
def decodeTableWord (nbits w : Nat) : Option Instr :=
  if w < 2 ^ nbits ∧ w < 2 ^ 32 then (decode (BitVec.ofNat 32 w)).instr? else none

end Sys2Proof
end

