-- ==== Sys2Proof/Machine/Bits.lean ====
section
/-! DEFINITION. The arithmetic and the byte order of the core (spec/00_scope.md R7 to R11, spec/20_memory.md R207 to
R209). There is no other arithmetic in it (spec/40_quarter_round.md R405). -/

namespace Sys2Proof.Machine

/-- `add32(a, b) = (a + b) mod 2^32`: wraps, no carry, no error (R9). -/
def add32 (a b : Word) : Word := a + b

/-- `rotl32(v, n) = ((v << n) | (v >> (32 - n))) mod 2^32`, for 0 < n < 32 (R10). -/
def rotl32 (v : Word) (n : Nat) : Word := (v <<< n) ||| (v >>> (32 - n))

/-- Four bytes as a word, the first the least significant (R11). -/
def le32 (b0 b1 b2 b3 : Byte) : Word :=
  b0.setWidth 32 ||| (b1.setWidth 32 <<< 8) ||| (b2.setWidth 32 <<< 16) ||| (b3.setWidth 32 <<< 24)

/-- Byte lane j of a word: bits [8j+7:8j] (R7). -/
def byteLane (v : Word) (j : Nat) : Byte := v.extractLsb' (8 * j) 8

/-- The four bytes of a word, little-endian: the inverse of `le32` (R11). -/
def bytesLe (v : Word) : List Byte := [byteLane v 0, byteLane v 1, byteLane v 2, byteLane v 3]

/-- The lane a partial write leaves in a word register: the new one where its byte enable is set (R206, R209). -/
def mergedLane (old new : Word) (be : BitVec 4) (j : Nat) : Byte :=
  if be.getLsbD j then byteLane new j else byteLane old j

/-- A word register after a write with byte enables (R206, R209). -/
def mergeLanes (old new : Word) (be : BitVec 4) : Word :=
  le32 (mergedLane old new be 0) (mergedLane old new be 1) (mergedLane old new be 2) (mergedLane old new be 3)

/-- A byte array after a write of its word `i` with byte enables: lane j is byte 4i + j (R206, R207). -/
def mergeBytes {n : Nat} (old : Vector Byte n) (i : Nat) (new : Word) (be : BitVec 4) : Vector Byte n :=
  Vector.ofFn fun p =>
    if p.val / 4 = i ∧ be.getLsbD (p.val % 4) = true then byteLane new (p.val % 4) else old[p]

/-- The key's word i: `le32(K[4i], K[4i+1], K[4i+2], K[4i+3])` (R205, R421). -/
def keyWord (k : Vector Byte 32) (i : Fin 8) : Word :=
  le32 k[4 * i.val] k[4 * i.val + 1] k[4 * i.val + 2] k[4 * i.val + 3]

/-- The nonce's word i: `le32(N[4i], N[4i+1], N[4i+2], N[4i+3])` (R205, R421). -/
def nonceWord (n : Vector Byte 12) (i : Fin 3) : Word :=
  le32 n[4 * i.val] n[4 * i.val + 1] n[4 * i.val + 2] n[4 * i.val + 3]

end Sys2Proof.Machine
end

