-- ==== Sys2Proof/Config.lean ====
section
/-! DEFINITION. What one implementation fixes (spec/00_scope.md R6: DBUF_WORDS and BASE) and the free values: the values
the spec leaves open and a program can see. A free value has no body, so no proof can know it. -/

namespace Sys2Proof

/-- The implementation parameters of R6 that something in the machine depends on. They stand in State, so that a claim
about every state is a claim about every legal parameter value (log 6); no step changes them.
LAT_op is the order of the entries of `State.inputs` (log 1) and PAR_BLOCKS is not observable (log 11). -/
structure Params where
  /-- DBUF_WORDS: the data buffer's capacity in words, 1..1024 (D13). -/
  dbufWords : Nat
  /-- BASE: the host byte address of word index 0 of the window (D36, OPEN). -/
  base : Nat
deriving DecidableEq, Repr

/-- DBUF_WORDS at its default (R6). BASE is OPEN: 0 is a DESIGN CHOICE (log 6). -/
def Config.defaultParams : Params := { dbufWords := 1024, base := 0 }

/-- FREE VALUE (log 3; R702, R703, U6, U7): the byte that DBUF address `a` holds after reset number `epoch`, for as long
as nothing has written it. One value per byte and reset: it reads the same each time. -/
opaque Config.dbufPowerOn (epoch a : Nat) : Byte

/-- FREE VALUE (log 4; R205, U5): the word that the n-th unspecified read while busy returns. -/
opaque Config.busyReadWord (n : Nat) : Word

end Sys2Proof
end

