-- ==== Sys2Proof/Machine/State.lean ====
section
/-! DEFINITION. The state of the machine (spec/10_state.md) as plain data, and its value after reset
(spec/70_reset_and_hazards.md R701). INVENTORY.md's '## State' lists every field with its rule and its reset value. -/

namespace Sys2Proof.Machine

/-- The completion codes (spec/60_exceptions.md R602). Codes 6..15 are reserved and never produced, so they have no
constructor (log 9); the bits of each are `errBits` in Machine/Flags.lean. -/
inductive ErrCode where
  /-- OK: every successful command. -/
  | ok
  /-- INVALID_KEY_LENGTH: KEY_LEN is not 32 (INIT, BLOCK, XOR). -/
  | invalidKeyLength
  /-- INVALID_NONCE_LENGTH: NONCE_LEN is not 12 (INIT, BLOCK, XOR). -/
  | invalidNonceLength
  /-- INVALID_DATA_LENGTH: LEN exceeds DBUF_BYTES (XOR). -/
  | invalidDataLength
  /-- ILLEGAL_COMMAND: the command word fails decode. -/
  | illegalCommand
  /-- ILLEGAL_INDEX: QRW's indices are not pairwise distinct. -/
  | illegalIndex
deriving DecidableEq, Repr

/-- A bus transaction of the host (spec/20_memory.md R202). `A` is an 11-bit word index: a misaligned access cannot be
expressed. Bit j of `be` enables byte lane j. -/
inductive Transaction where
  | read (A : BitVec 11)
  | write (A : BitVec 11) (data : Word) (be : BitVec 4)
deriving DecidableEq, Repr

/-- One thing that happens next to the core. R609 names the machine's steps: host transactions, completion steps, and
reset; their total order (R215) is the order of `State.inputs` (log 1). -/
inductive Event where
  /-- A host bus transaction. -/
  | host (t : Transaction)
  /-- The moment of the completion step, if a command is running; else nothing happens. -/
  | sequencer
  /-- Reset is asserted (R703). -/
  | reset
deriving DecidableEq, Repr

/-- What a word index of the host window names (R203). -/
inductive Reg where
  | id
  | cmd
  | status
  | irqEn
  | keyLen
  | nonceLen
  | counter
  | len
  | key (i : Fin 8)
  | nonce (i : Fin 3)
  | qa
  | qb
  | qc
  | qd
  | s (i : Fin 16)
  | w (i : Fin 16)
  | out (i : Fin 16)
  /-- DBUF word `i`, that is, DBUF[4i..4i+3]. -/
  | dbuf (i : Nat)
  /-- A reserved or unmapped index (R204). -/
  | unmapped
deriving DecidableEq, Repr

/-- The written bytes of DBUF, as (address, byte) cells with strictly rising addresses (`Memory.wf`). An address with no
cell has not been written since the last reset and holds the free draw of `Config.dbufPowerOn` (log 3). -/
abbrev Memory := List Host.Cell

/-- The canonical form: addresses strictly rising. An unlisted address holds no written value, so no cell can equal what
an unlisted address holds. -/
abbrev Memory.wf (m : Memory) : Prop := (m.map Prod.fst).Pairwise (· < ·)

/-- The machine's state. -/
structure State where
  /-- The implementation's parameters (R6); no step changes them (log 6). -/
  params : Params
  /-- K[0..31], the key bytes (R103). -/
  keyBytes : Vector Byte 32
  /-- KEY_LEN[7:0] (R104). -/
  keyLen : BitVec 8
  /-- N[0..11], the nonce bytes (R105). -/
  nonceBytes : Vector Byte 12
  /-- NONCE_LEN[7:0] (R106). -/
  nonceLen : BitVec 8
  /-- COUNTER, the block counter (R107). -/
  counter : Word
  /-- LEN, the data length in bytes for XOR (R108). -/
  len : Word
  /-- QA, QB, QC, QD: the quarter-round operands and results (R109). -/
  qa : Word
  qb : Word
  qc : Word
  qd : Word
  /-- S[0..15], the initial state (R110). -/
  regS : Words16
  /-- W[0..15], the working state (R111). -/
  regW : Words16
  /-- OUT[0..15], the block output (R112). -/
  regOut : Words16
  /-- DBUF, the data buffer (R113): the bytes written since the last reset. -/
  dbuf : Memory
  /-- CMD as it reads: the last accepted command word (R115). -/
  cmd : Word
  /-- BUSY(STATUS), the sequencer's `busy` (R116, R119). -/
  busy : Bool
  /-- DONE(STATUS), the pending bit of the completion interrupt (R116, R607). -/
  done : Bool
  /-- ERR(STATUS) (R116, R602). -/
  err : ErrCode
  /-- OVR(STATUS) (R116, R117). -/
  ovr : Bool
  /-- DONE_IE(IRQ_EN) (R118). -/
  doneIe : Bool
  /-- The sequencer's `pending` (R119): the accepted command word, meaningful only while busy. -/
  pending : Word
  /-- The MODEL's own: what happens next, oldest first (log 1). -/
  inputs : List Event
  /-- The MODEL's own: the words the bus reads returned, newest first (R120, log 7). -/
  responses : List Word
  /-- The MODEL's own: how many free words reads while busy have taken (log 4). -/
  draws : Nat
  /-- The MODEL's own: how many resets have happened, the index of DBUF's present draw (log 3). -/
  dbufEpoch : Nat
deriving DecidableEq, Repr

/-- The machine's faults: NONE. "The core has no traps and no exception vectors" (R601), "bus accesses never raise an
error" (R606) and no behaviour is stuck (spec/93_implementation_defined.md), so no step stops with a fault (log 10). -/
inductive Fault where
deriving DecidableEq, Repr

/-- The refusals. -/
inductive Refusal where
  /-- Raised by an arm of `exec` for a command that has no meaning yet (safe: it stops). No arm raises it now. -/
  | notModelled (mnemonic : String)
deriving DecidableEq, Repr

/-- What a meaning answers. -/
abbrev Result := Host.Outcome State Fault Refusal

/-- The state right after reset (R701), with the default parameters. DBUF has nothing written (R702); `pending` is
unspecified and unused by R701, and 0 is a DESIGN CHOICE (log 5). -/
def State.reset : State where
  params := Config.defaultParams
  keyBytes := Vector.replicate 32 0
  keyLen := 0
  nonceBytes := Vector.replicate 12 0
  nonceLen := 0
  counter := 0
  len := 0
  qa := 0
  qb := 0
  qc := 0
  qd := 0
  regS := Vector.replicate 16 0
  regW := Vector.replicate 16 0
  regOut := Vector.replicate 16 0
  dbuf := []
  cmd := 0
  busy := false
  done := false
  err := .ok
  ovr := false
  doneIe := false
  pending := 0
  inputs := []
  responses := []
  draws := 0
  dbufEpoch := 0

end Sys2Proof.Machine
end

