-- ==== Sys2Proof/Machine/Flags.lean ====
section
/-! DEFINITION. The STATUS register: its layout, and who sets and clears each field (spec/10_state.md R116 to R118,
spec/60_exceptions.md R601, R602, R607, R608, spec/20_memory.md R210). No command writes a flag as a side effect of
arithmetic: the core's arithmetic cannot fail (R605). -/

namespace Sys2Proof.Machine

/-- The bits of ERR (R602). -/
def errBits : ErrCode → BitVec 4
  | .ok => 0
  | .invalidKeyLength => 1
  | .invalidNonceLength => 2
  | .invalidDataLength => 3
  | .illegalCommand => 4
  | .illegalIndex => 5

/-- A flag as a word. -/
def flagWord (b : Bool) : Word := (BitVec.ofBool b).setWidth 32

/-- STATUS as it reads: `BUSY | DONE<<1 | ERR<<4 | OVR<<8`; every other bit reads 0 (R205, R116). -/
def State.statusWord (s : State) : Word :=
  flagWord s.busy ||| (flagWord s.done <<< 1) ||| ((errBits s.err).setWidth 32 <<< 4) ||| (flagWord s.ovr <<< 8)

/-- The output line: `irq = DONE(STATUS) & DONE_IE(IRQ_EN)`, level-sensitive (R608, R120). -/
def State.irq (s : State) : Bool := s.done && s.doneIe

/-- The STATUS side of a completion: `busy <- 0`, `DONE <- 1`, `ERR <- code` (R214, R601). OVR stays (R117).
`pending` keeps the completed word: a DESIGN CHOICE (log 5), since it may hold any value while idle and is never read then
(R119, U17). -/
def State.finish (e : ErrCode) (s : State) : State :=
  { s with busy := false, done := true, err := e }

/-- A host write of STATUS: DONE and OVR are cleared by writing 1 to their bits; BUSY and ERR cannot be written, and the
byte enables are ignored (R116, R206). Clearing DONE is also how a handler of the completion interrupt returns (R610). -/
def State.ackStatus (data : Word) (s : State) : State :=
  { s with done := s.done && !data.getLsbD 1, ovr := s.ovr && !data.getLsbD 8 }

/-- A write was lost while busy: `OVR <- 1`, sticky (R117). -/
def State.flagOvr (s : State) : State := { s with ovr := true }

/-- A host write of IRQ_EN: `DONE_IE <- data[0]`, byte enables ignored (R118, R206). -/
def State.setDoneIe (data : Word) (s : State) : State := { s with doneIe := data.getLsbD 0 }

end Sys2Proof.Machine
end

