-- ==== Sys2Proof/Machine/Ops.lean ====
section
/-! DEFINITION. The named operations over the state: the data buffer's bytes, the registers the commands write, accepting
a command, completing one, raising an error, reset. -/

namespace Sys2Proof.Machine

/-! ## The data buffer (spec/10_state.md R113, spec/00_scope.md R13) -/

/-- The written value of an address, if it has one. -/
def Memory.read : Memory → Nat → Option Byte
  | [], _ => none
  | (b, v) :: m, a => if a = b then some v else Memory.read m a

/-- Write one byte, keeping the addresses strictly rising. -/
def Memory.write : Memory → Nat → Byte → Memory
  | [], a, v => [(a, v)]
  | (b, u) :: m, a, v =>
      if a < b then (a, v) :: (b, u) :: m
      else if a = b then (a, v) :: m
      else (b, u) :: Memory.write m a v

/-- DBUF_BYTES = 4 * DBUF_WORDS (R6). -/
def State.dbufBytes (s : State) : Nat := 4 * s.params.dbufWords

/-- `MemRead(a, 1)`: byte DBUF[a] (R13). A byte never written since the last reset holds its free draw (R702). -/
def State.memRead (s : State) (a : Nat) : Byte :=
  (Memory.read s.dbuf a).getD (Config.dbufPowerOn s.dbufEpoch a)

/-- Write bytes at a, a+1, ..., in increasing order. -/
def Memory.writeFrom : Nat → List Byte → Memory → Memory
  | _, [], m => m
  | a, b :: bs, m => Memory.writeFrom (a + 1) bs (Memory.write m a b)

/-- `MemWrite(a + p, 1, bs[p])` for each p in order, where `MemWrite(x, 1, v)` is `DBUF[x] <- v` (R13, R473). -/
def State.memWriteFrom (a : Nat) (bs : List Byte) (s : State) : State :=
  { s with dbuf := Memory.writeFrom a bs s.dbuf }

/-- One lane of a host write to DBUF word i: `if be[j] = 1 then DBUF[4i+j] <- lane j of data` (spec/20_memory.md R206). -/
def Memory.writeLane (i : Nat) (data : Word) (be : BitVec 4) (m : Memory) (j : Nat) : Memory :=
  if be.getLsbD j then Memory.write m (4 * i + j) (byteLane data j) else m

/-- A host write to DBUF word i: its enabled lanes, for j = 0..3 (R206). -/
def State.writeDbufWord (i : Nat) (data : Word) (be : BitVec 4) (s : State) : State :=
  { s with dbuf := [0, 1, 2, 3].foldl (Memory.writeLane i data be) s.dbuf }

/-! ## The registers commands write -/

/-- `(QA, QB, QC, QD) <- q` (R403). -/
def State.setQ (q : Word × Word × Word × Word) (s : State) : State :=
  { s with qa := q.1, qb := q.2.1, qc := q.2.2.1, qd := q.2.2.2 }

/-- `S <- v`. -/
def State.setS (v : Words16) (s : State) : State := { s with regS := v }

/-- `W <- v`. -/
def State.setW (v : Words16) (s : State) : State := { s with regW := v }

/-- `OUT <- v`. -/
def State.setOut (v : Words16) (s : State) : State := { s with regOut := v }

/-! ## Accepting, completing, raising -/

/-- Command acceptance (spec/20_memory.md R210). OVR does not change. -/
def State.accept (c : Word) (s : State) : State :=
  { s with pending := c, cmd := c, busy := true, done := false, err := .ok }

/-- The successful completion of a command whose register writes have made `s` (R214, R601). -/
def complete (s : State) : Result := .next (s.finish .ok)

/-- TAKING AN ERROR, the one operation for all of them (R601, R603, R14): the completion with a nonzero code, and no other
write of the command. `s` is the state the command found. Nothing is saved and no control is transferred (R610); the
failed word stays in CMD (R605). The return is `State.ackStatus`, or accepting the next command (R610). -/
def raise (e : ErrCode) (s : State) : Result := .next (s.finish e)

/-! ## Reset and the model's own fields -/

/-- Reset (R701, R703), idle or busy: every register at its reset value, the running command gone without completing,
DBUF a new unspecified content. The parameters stay; the model's records of the outside world stay (log 7, log 12). -/
def State.resetCore (s : State) : State :=
  { State.reset with
    params := s.params
    inputs := s.inputs
    responses := s.responses
    draws := s.draws
    dbufEpoch := s.dbufEpoch + 1 }

/-- The first entry of `inputs` is being served. -/
def State.popInput (s : State) : State := { s with inputs := s.inputs.tail }

/-- A bus read returns `v` to the host (R205, log 7). -/
def State.respond (v : Word) (s : State) : State := { s with responses := v :: s.responses }

/-- One free word has been used (log 4). -/
def State.takeDraw (s : State) : State := { s with draws := s.draws + 1 }

end Sys2Proof.Machine
end

