-- ==== Sys2Proof/Machine/Operands.lean ====
section
/-! DEFINITION. Where operands come from: the register map of the host window (spec/20_memory.md R203), the value each
register reads as (R205), the effect of writing it (R206), the operand checks of the commands (spec/60_exceptions.md
R602, R604) and the index check of QRW (spec/40_quarter_round.md R404). -/

namespace Sys2Proof.Machine

/-! ## The register map -/

/-- Word indices 0x000..0x00F of R203: the control registers, the lengths, COUNTER, LEN, and KEY0..KEY7. -/
def regRow0 : Nat → Reg
  | 0x0 => .id
  | 0x1 => .cmd
  | 0x2 => .status
  | 0x3 => .irqEn
  | 0x4 => .keyLen
  | 0x5 => .nonceLen
  | 0x6 => .counter
  | 0x7 => .len
  | 0x8 => .key 0
  | 0x9 => .key 1
  | 0xA => .key 2
  | 0xB => .key 3
  | 0xC => .key 4
  | 0xD => .key 5
  | 0xE => .key 6
  | 0xF => .key 7
  | _ => .unmapped

/-- Word indices 0x010..0x01F of R203: NONCE0..NONCE2, a reserved index, QA..QD, eight reserved indices. -/
def regRow1 : Nat → Reg
  | 0x0 => .nonce 0
  | 0x1 => .nonce 1
  | 0x2 => .nonce 2
  | 0x3 => .unmapped
  | 0x4 => .qa
  | 0x5 => .qb
  | 0x6 => .qc
  | 0x7 => .qd
  | _ => .unmapped

/-- The map of R203, sixteen word indices a row; from 0x050 on only DBUF's words are mapped, from 0x400. -/
def regAt (p : Params) (A : BitVec 11) : Reg :=
  let a := A.toNat
  match a / 16 with
  | 0x00 => regRow0 (a % 16)
  | 0x01 => regRow1 (a % 16)
  | 0x02 => .s (Fin.ofNat 16 a)
  | 0x03 => .w (Fin.ofNat 16 a)
  | 0x04 => .out (Fin.ofNat 16 a)
  | _ => if 0x400 ≤ a ∧ a < 0x400 + p.dbufWords then .dbuf (a - 0x400) else .unmapped

/-- The word index of a register's name (R203). `unmapped` names no single index; 0x013 is one of them.
DESIGN CHOICE (log 15): R203 names DBUFi only for i < DBUF_WORDS; here it is index 0x400 + i for every i, an unmapped index
for DBUF_WORDS ≤ i < 1024, and wrapping mod 2^11 from i = 1024 on (DBUF1024 is index 0x000). -/
def Reg.index : Reg → BitVec 11
  | .id => 0x000
  | .cmd => 0x001
  | .status => 0x002
  | .irqEn => 0x003
  | .keyLen => 0x004
  | .nonceLen => 0x005
  | .counter => 0x006
  | .len => 0x007
  | .key i => BitVec.ofNat 11 (0x008 + i.val)
  | .nonce i => BitVec.ofNat 11 (0x010 + i.val)
  | .qa => 0x014
  | .qb => 0x015
  | .qc => 0x016
  | .qd => 0x017
  | .s i => BitVec.ofNat 11 (0x020 + i.val)
  | .w i => BitVec.ofNat 11 (0x030 + i.val)
  | .out i => BitVec.ofNat 11 (0x040 + i.val)
  | .dbuf i => BitVec.ofNat 11 (0x400 + i)
  | .unmapped => 0x013

/-- The word index that a host byte address reaches, if it lies in the window (R201): the window is the 8192 bytes from
BASE, and the low two bits of the address are not carried (R202, log 13).
DESIGN CHOICE (log 13): the spec does not say that BASE is a multiple of 4; for a BASE that is not, the two bits dropped here
are those of `byteAddr - BASE`, not of the host byte address itself. -/
def windowIndex (p : Params) (byteAddr : Nat) : Option (BitVec 11) :=
  if p.base ≤ byteAddr ∧ byteAddr < p.base + 8192 then some (BitVec.ofNat 11 ((byteAddr - p.base) / 4)) else none

/-! ## What a register reads as, while the core is idle (R205) -/

/-- ID, hard-wired: the ASCII bytes "CC20" in lanes 0..3 (R114). -/
def idWord : Word := 0x30324343

/-- DBUF word i: `le32(DBUF[4i], DBUF[4i+1], DBUF[4i+2], DBUF[4i+3])` (R205). -/
def State.dbufWord (s : State) (i : Nat) : Word :=
  le32 (s.memRead (4 * i)) (s.memRead (4 * i + 1)) (s.memRead (4 * i + 2)) (s.memRead (4 * i + 3))

/-- The word each register reads as (R205); reserved bits and unmapped indices read 0 (R204). -/
def State.readReg (s : State) : Reg → Word
  | .id => idWord
  | .cmd => s.cmd
  | .status => s.statusWord
  | .irqEn => flagWord s.doneIe
  | .keyLen => s.keyLen.setWidth 32
  | .nonceLen => s.nonceLen.setWidth 32
  | .counter => s.counter
  | .len => s.len
  | .key i => keyWord s.keyBytes i
  | .nonce i => nonceWord s.nonceBytes i
  | .qa => s.qa
  | .qb => s.qb
  | .qc => s.qc
  | .qd => s.qd
  | .s i => s.regS[i]
  | .w i => s.regW[i]
  | .out i => s.regOut[i]
  | .dbuf i => s.dbufWord i
  | .unmapped => 0

/-- The four registers that read as they are while the core is busy (R205). -/
def Reg.readableWhileBusy : Reg → Bool
  | .id | .cmd | .status | .irqEn => true
  | .keyLen | .nonceLen | .counter | .len | .key _ | .nonce _ | .qa | .qb | .qc | .qd => false
  | .s _ | .w _ | .out _ | .dbuf _ | .unmapped => false

/-- The two registers that take a write while the core is busy (R206). -/
def Reg.writableWhileBusy : Reg → Bool
  | .status | .irqEn => true
  | .id | .cmd | .keyLen | .nonceLen | .counter | .len | .key _ | .nonce _ | .qa | .qb | .qc | .qd => false
  | .s _ | .w _ | .out _ | .dbuf _ | .unmapped => false

/-! ## What writing a register does, when the write is taken (R206) -/

/-- An 8-bit length register after a write: lane 0 when enabled; bits [31:8] are reserved (R104, R106, R206). -/
def mergeLen8 (old : BitVec 8) (data : Word) (be : BitVec 4) : BitVec 8 :=
  if be.getLsbD 0 then byteLane data 0 else old

/-- A write to each register (R206). CMD, STATUS and IRQ_EN ignore the byte enables. -/
def State.writeReg (r : Reg) (data : Word) (be : BitVec 4) (s : State) : State :=
  match r with
  | .id => s
  | .cmd => s.accept data
  | .status => s.ackStatus data
  | .irqEn => s.setDoneIe data
  | .keyLen => { s with keyLen := mergeLen8 s.keyLen data be }
  | .nonceLen => { s with nonceLen := mergeLen8 s.nonceLen data be }
  | .counter => { s with counter := mergeLanes s.counter data be }
  | .len => { s with len := mergeLanes s.len data be }
  | .key i => { s with keyBytes := mergeBytes s.keyBytes i.val data be }
  | .nonce i => { s with nonceBytes := mergeBytes s.nonceBytes i.val data be }
  | .qa => { s with qa := mergeLanes s.qa data be }
  | .qb => { s with qb := mergeLanes s.qb data be }
  | .qc => { s with qc := mergeLanes s.qc data be }
  | .qd => { s with qd := mergeLanes s.qd data be }
  | .s i => { s with regS := s.regS.set i.val (mergeLanes s.regS[i] data be) }
  | .w i => { s with regW := s.regW.set i.val (mergeLanes s.regW[i] data be) }
  | .out i => { s with regOut := s.regOut.set i.val (mergeLanes s.regOut[i] data be) }
  | .dbuf i => s.writeDbufWord i data be
  | .unmapped => s

/-! ## The operand checks of the commands -/

/-- The four indices of QRW are pairwise distinct (R404). -/
def pairwiseDistinct (x y z w : Fin 16) : Bool :=
  decide (x ≠ y) && decide (x ≠ z) && decide (x ≠ w) && decide (y ≠ z) && decide (y ≠ w) && decide (z ≠ w)

/-- The check INIT, BLOCK and XOR make first, key before nonce (R422, R604). -/
def State.lengthError (s : State) : Option ErrCode :=
  if s.keyLen ≠ 32 then some .invalidKeyLength
  else if s.nonceLen ≠ 12 then some .invalidNonceLength
  else none

/-- The check XOR makes after it: `LEN > DBUF_BYTES` (R473). -/
def State.dataLengthError (s : State) : Option ErrCode :=
  if s.dbufBytes < s.len.toNat then some .invalidDataLength else none

end Sys2Proof.Machine
end

