-- ==== Sys2Proof/Machine/Bus.lean ====
section
/-! DEFINITION. The host's transactions (spec/20_memory.md R202, R205, R206): reads, writes, and what the busy window does
to both. -/

namespace Sys2Proof.Machine

/-- The register a transaction's word index names on this machine. -/
def State.regAt (s : State) (A : BitVec 11) : Reg := Sys2Proof.Machine.regAt s.params A

/-- A read gives an unspecified word: the core is busy and the address is none of ID, CMD, STATUS, IRQ_EN (R205). -/
def State.readIsOpen (s : State) (A : BitVec 11) : Bool := s.busy && !(s.regAt A).readableWhileBusy

/-- The word `BusRead(A)` returns (R205). An open read returns a free word (U5, log 4). -/
def State.busRead (s : State) (A : BitVec 11) : Word :=
  if s.readIsOpen A then Config.busyReadWord s.draws else s.readReg (s.regAt A)

/-- A write is lost: the core is busy and the address is neither STATUS nor IRQ_EN (R206, R117). -/
def State.writeIsLost (s : State) (A : BitVec 11) : Bool := s.busy && !(s.regAt A).writableWhileBusy

/-- `BusWrite(A, data, be)` (R206). A lost write sets OVR and does nothing else (R117). -/
def State.busWrite (A : BitVec 11) (data : Word) (be : BitVec 4) (s : State) : State :=
  if s.writeIsLost A then s.flagOvr else s.writeReg (s.regAt A) data be

/-- The read as a step: the word goes to the host; an open read also uses up one free word. Nothing the core holds
changes (R205: a read never changes any state). -/
def State.hostRead (A : BitVec 11) (s : State) : State :=
  if s.readIsOpen A then (s.respond (s.busRead A)).takeDraw else s.respond (s.busRead A)

/-- One host transaction (R202, R212: each is atomic). -/
def hostTransaction (t : Transaction) (s : State) : State :=
  match t with
  | .read A => s.hostRead A
  | .write A data be => s.busWrite A data be

end Sys2Proof.Machine
end

