-- ==== Sys2Proof/Machine/QuarterRound.lean ====
section
/-! DEFINITION. The quarter-round family (spec/40_quarter_round.md): QRF, QRWF, and the commands QR and QRW. -/

namespace Sys2Proof.Machine

/-- `QRF(a, b, c, d)`: the twelve steps in the order written, each on the values the steps before it made (R401). -/
def qrf (a b c d : Word) : Word × Word × Word × Word :=
  let a := add32 a b
  let d := d ^^^ a
  let d := rotl32 d 16
  let c := add32 c d
  let b := b ^^^ c
  let b := rotl32 b 12
  let a := add32 a b
  let d := d ^^^ a
  let d := rotl32 d 8
  let c := add32 c d
  let b := b ^^^ c
  let b := rotl32 b 7
  (a, b, c, d)

/-- `QRWF(V, x, y, z, w)`: the quarter round in place on four positions, which R402 takes pairwise distinct. -/
def qrwf (v : Words16) (x y z w : Fin 16) : Words16 :=
  let q := qrf v[x] v[y] v[z] v[w]
  (((v.set x.val q.1).set y.val q.2.1).set z.val q.2.2.1).set w.val q.2.2.2

/-- QR (R403). -/
def execQr (s : State) : Result :=
  complete (s.setQ (qrf s.qa s.qb s.qc s.qd))

/-- QRW x, y, z, w (R404). -/
def execQrw (x y z w : Fin 16) (s : State) : Result :=
  if pairwiseDistinct x y z w then complete (s.setW (qrwf s.regW x y z w)) else raise .illegalIndex s

end Sys2Proof.Machine
end

