-- ==== Sys2Proof/Machine/StateInit.lean ====
section
/-! DEFINITION. The state-initialisation family (spec/41_state_init.md): INITF and the command INIT. -/

namespace Sys2Proof.Machine

/-- `INITF(K, ctr, N)` (R421): the constants at 0..3, the key words at 4..11, the counter at 12, the nonce words at
13..15. -/
def initF (k : Vector Byte 32) (ctr : Word) (n : Vector Byte 12) : Words16 :=
  #v[0x61707865, 0x3320646e, 0x79622d32, 0x6b206574,
     keyWord k 0, keyWord k 1, keyWord k 2, keyWord k 3,
     keyWord k 4, keyWord k 5, keyWord k 6, keyWord k 7,
     ctr, nonceWord n 0, nonceWord n 1, nonceWord n 2]

/-- INIT (R422). Only S is written. -/
def execInit (s : State) : Result :=
  match s.lengthError with
  | some e => raise e s
  | none => complete (s.setS (initF s.keyBytes s.counter s.nonceBytes))

end Sys2Proof.Machine
end

