-- ==== Sys2Proof/Machine/BlockFunction.lean ====
section
/-! DEFINITION. The block-function family (spec/42_block_function.md): DRF, MIXF, BLOCKF, the serialisation SER, and the
commands COPY, DROUND, MIX, ADDBACK and BLOCK. -/

namespace Sys2Proof.Machine

/-- The four quarter rounds on the columns (R441). -/
def columnRound (v : Words16) : Words16 :=
  let v := qrwf v 0 4 8 12
  let v := qrwf v 1 5 9 13
  let v := qrwf v 2 6 10 14
  qrwf v 3 7 11 15

/-- The four quarter rounds on the diagonals (R441). -/
def diagonalRound (v : Words16) : Words16 :=
  let v := qrwf v 0 5 10 15
  let v := qrwf v 1 6 11 12
  let v := qrwf v 2 7 8 13
  qrwf v 3 4 9 14

/-- `DRF(V)`, the double round: the columns, then the diagonals (R441). -/
def drf (v : Words16) : Words16 := diagonalRound (columnRound v)

/-- The double round n times. -/
def drfTimes : Nat → Words16 → Words16
  | 0, v => v
  | n + 1, v => drfTimes n (drf v)

/-- `MIXF(V) = DRF^10(V)` (R442): 20 rounds, 80 quarter rounds. -/
def mixF (v : Words16) : Words16 := drfTimes 10 v

/-- Word-wise `add32`: 16 independent lanes (R442, R446, R449). -/
def addBack (a b : Words16) : Words16 := Vector.ofFn fun i => add32 a[i] b[i]

/-- `BLOCKF(K, ctr, N)` (R442). -/
def blockF (k : Vector Byte 32) (ctr : Word) (n : Vector Byte 12) : Words16 :=
  addBack (initF k ctr n) (mixF (initF k ctr n))

/-- `SER(O)`: each word little-endian, in index order, 64 bytes (R450). -/
def ser (o : Words16) : List Byte := o.toList.flatMap bytesLe

/-- COPY (R443): S is copied whatever it holds. -/
def execCopy (s : State) : Result := complete (s.setW s.regS)

/-- DROUND (R444). -/
def execDround (s : State) : Result := complete (s.setW (drf s.regW))

/-- MIX (R445). -/
def execMix (s : State) : Result := complete (s.setW (mixF s.regW))

/-- ADDBACK (R446). -/
def execAddback (s : State) : Result := complete (s.setOut (addBack s.regS s.regW))

/-- BLOCK (R447): S, W and OUT from the key, the counter and the nonce; the old S, W and OUT play no part. -/
def execBlock (s : State) : Result :=
  match s.lengthError with
  | some e => raise e s
  | none =>
      let s0 := initF s.keyBytes s.counter s.nonceBytes
      let w := mixF s0
      complete (((s.setS s0).setW w).setOut (addBack s0 w))

end Sys2Proof.Machine
end

