-- ==== Sys2Proof/Machine/KeystreamXor.lean ====
section
/-! DEFINITION. The keystream-XOR family (spec/43_keystream_xor.md): CHACHAF and the command XOR. -/

namespace Sys2Proof.Machine

/-- The 64 keystream bytes of chunk j: `SER(BLOCKF(K, add32(c0, j mod 2^32), N))` (R471, R472: the counter wraps). -/
def keystream (k : Vector Byte 32) (c0 : Word) (n : Vector Byte 12) (j : Nat) : List Byte :=
  ser (blockF k (add32 c0 (BitVec.ofNat 32 j)) n)

/-- The number of chunks of L bytes, `ceil(L / 64)` (R472). -/
def chunkCount (L : Nat) : Nat := (L + 63) / 64

/-- Bytes XORed one by one, as many as both lists have. -/
def xorBytes (a b : List Byte) : List Byte := List.zipWith (· ^^^ ·) a b

/-- Chunk j of D, `D[64j .. 64j + min(64, L - 64j) - 1]`, XORed with its keystream block; a last partial chunk uses only
the first bytes of its block (R471, R472). -/
def chunkOut (k : Vector Byte 32) (c0 : Word) (n : Vector Byte 12) (d : List Byte) (j : Nat) : List Byte :=
  xorBytes ((d.drop (64 * j)).take 64) (keystream k c0 n j)

/-- `CHACHAF(K, c0, N, D)` (R471): the chunks in order. -/
def chachaF (k : Vector Byte 32) (c0 : Word) (n : Vector Byte 12) (d : List Byte) : List Byte :=
  (List.range (chunkCount d.length)).flatMap (chunkOut k c0 n d)

/-- `DBUF[0 .. LEN-1]` (R473). -/
def State.dataBytes (s : State) : List Byte := (List.range s.len.toNat).map s.memRead

/-- XOR (R473): all three checks come before any byte is read or written. -/
def execXor (s : State) : Result :=
  match s.lengthError with
  | some e => raise e s
  | none =>
      match s.dataLengthError with
      | some e => raise e s
      | none => complete (s.memWriteFrom 0 (chachaF s.keyBytes s.counter s.nonceBytes s.dataBytes))

/-- What an implementation that works block by block does for chunk j alone: it XORs the chunk in place (R477, U3). It
serves the statement that the order of the blocks is not observable (log 11); no meaning uses it. -/
def State.xorChunk (s : State) (j : Nat) : State :=
  s.memWriteFrom (64 * j) (chunkOut s.keyBytes s.counter s.nonceBytes s.dataBytes j)

end Sys2Proof.Machine
end

