-- ==== Sys2Proof/Machine/System.lean ====
section
/-! DEFINITION. The system commands (spec/44_system.md): NOP, and the completion of an illegal command word. The core has
no control-transfer, environment-call, trap-return or privileged commands (R493, R494). -/

namespace Sys2Proof.Machine

/-- NOP (R491): no effect but its completion. -/
def execNop (s : State) : Result := complete s

/-- An illegal command word completes with ILLEGAL_COMMAND (R492, R304). -/
def illegalWord (s : State) : Result := raise .illegalCommand s

end Sys2Proof.Machine
end

