-- ==== Sys2Proof/Machine/Dispatch.lean ====
section
/-! DEFINITION. The meaning of every command: its completion step (spec/20_memory.md R214). -/

namespace Sys2Proof.Machine

def exec (i : Instr) (s : State) : Host.Outcome State Fault Refusal :=
  match i with
  | .nop => Sys2Proof.Machine.execNop s
  | .qr => Sys2Proof.Machine.execQr s
  | .qrw x y z w => Sys2Proof.Machine.execQrw x y z w s
  | .init => Sys2Proof.Machine.execInit s
  | .copy => Sys2Proof.Machine.execCopy s
  | .dround => Sys2Proof.Machine.execDround s
  | .mix => Sys2Proof.Machine.execMix s
  | .addback => Sys2Proof.Machine.execAddback s
  | .block => Sys2Proof.Machine.execBlock s
  | .xor => Sys2Proof.Machine.execXor s

end Sys2Proof.Machine
end

