-- ==== Sys2Proof/Machine/Step.lean ====
section
/-! DEFINITION. One step of the machine (spec/60_exceptions.md R609: a host transaction, a completion step, or a reset), and
how a command word is placed so that the very next step runs it. -/

namespace Sys2Proof.Machine

/-- The completion step of the accepted command (R214): the pending word is decoded (R304) and its command performed. -/
def sequencerStep (s : State) : Result :=
  match decode s.pending with
  | .command i => exec i s
  | .illegal _ => illegalWord s

/-- One step. The first entry of `inputs` says what happens: a host transaction, the sequencer's turn, or reset. When
`inputs` is used up the outside does nothing more, so a running command completes (R714: every accepted command does), and
an idle core stays as it is (R616: nothing wakes it but a command write or reset) (log 1, log 2). -/
def step (s : State) : Host.Outcome State Fault Refusal :=
  match s.inputs with
  | [] => if s.busy then sequencerStep s else .next s
  | .sequencer :: _ => if s.busy then sequencerStep s.popInput else .next s.popInput
  | .host t :: _ => .next (hostTransaction t s.popInput)
  | .reset :: _ => .next s.popInput.resetCore

/-- `s` with the command word `w` accepted (R210) and the next entry of `inputs` the sequencer's turn, so that the very next
step is the completion of that word. The core fetches nothing (R102, R218): `pending` is the only place a command word is
run from, and the rest of the change is acceptance's own (log 14). -/
def State.withFetchWord (s : State) (nbits w : Nat) : State :=
  let t := s.accept (BitVec.ofNat 32 (w % 2 ^ nbits))
  { t with inputs := .sequencer :: t.inputs }

end Sys2Proof.Machine
end

