-- ==== Sys2Proof/Machine/HostAsm.lean ====
section
/-! DEFINITION. The host's side: the assembly statements and pseudo-instructions of spec/30_encoding.md R307 and R308, as the
lists of events they put into `State.inputs`. A list here is what the host does; where the sequencer's turns fall among
its transactions is the schedule's business, except in `wait`, which is the host's loop on STATUS (log 15). -/

namespace Sys2Proof.Machine

/-- `wr @0xNNN, value, be=0bBBBB`: a register named by its word index (R307). -/
def Asm.wrAtBe (A : BitVec 11) (v : Word) (be : BitVec 4) : Event := .host (.write A v be)

/-- `wr NAME, value, be=0bBBBB` (R307). -/
def Asm.wrBe (r : Reg) (v : Word) (be : BitVec 4) : Event := Asm.wrAtBe r.index v be

/-- `wr NAME, value`: all four lanes (R307). -/
def Asm.wr (r : Reg) (v : Word) : Event := Asm.wrBe r v 0b1111

/-- `wr @0xNNN, value`: all four lanes (R307). -/
def Asm.wrAt (A : BitVec 11) (v : Word) : Event := Asm.wrAtBe A v 0b1111

/-- `rd @0xNNN` (R307). -/
def Asm.rdAt (A : BitVec 11) : Event := .host (.read A)

/-- `rd NAME` (R307). -/
def Asm.rd (r : Reg) : Event := Asm.rdAt r.index

/-- A mnemonic on its own line: `wr CMD, <encoding>` (R307). -/
def Asm.command (i : Instr) : Event := Asm.wr .cmd (encode i)

/-- `wait` on a command that completes after `polls` reads of STATUS: those reads, the completion step, and the read that
returns BUSY = 0 and ends the loop (R308). The number of polls is the open latency (R716). -/
def Asm.wait (polls : Nat) : List Event := List.replicate polls (Asm.rd .status) ++ [.sequencer, Asm.rd .status]

/-- `run m`: the mnemonic followed by `wait` (R308). -/
def Asm.run (i : Instr) (polls : Nat) : List Event := Asm.command i :: Asm.wait polls

/-- `ldkey k0 .. k31` (R308). -/
def Asm.ldkey (k : Vector Byte 32) : List Event :=
  (List.finRange 8).map (fun i => Asm.wr (.key i) (keyWord k i)) ++ [Asm.wr .keyLen 32]

/-- `ldnonce n0 .. n11` (R308). -/
def Asm.ldnonce (n : Vector Byte 12) : List Event :=
  (List.finRange 3).map (fun i => Asm.wr (.nonce i) (nonceWord n i)) ++ [Asm.wr .nonceLen 12]

/-- The byte enables of word i of a buffer of L bytes: bit j set iff 4i + j < L (R308). -/
def Asm.bufEnables (L i : Nat) : BitVec 4 :=
  flagNibble (decide (4 * i < L)) (decide (4 * i + 1 < L)) (decide (4 * i + 2 < L)) (decide (4 * i + 3 < L))
where
  flagNibble (b0 b1 b2 b3 : Bool) : BitVec 4 :=
    BitVec.ofBool b3 ++ BitVec.ofBool b2 ++ BitVec.ofBool b1 ++ BitVec.ofBool b0

/-- Word i of a buffer; a lane past the end is 0, and not enabled (R308, log 15). -/
def Asm.bufWord (bs : List Byte) (i : Nat) : Word :=
  le32 (bs.getD (4 * i) 0) (bs.getD (4 * i + 1) 0) (bs.getD (4 * i + 2) 0) (bs.getD (4 * i + 3) 0)

/-- `ldbuf b0 .. b(L-1)`: the words, the last with its lanes enabled, then `wr LEN, L` (R308).
DESIGN CHOICE (log 15), where R308 is silent: R203 names no DBUFi for i ≥ DBUF_WORDS, and for data of more than DBUF_BYTES
bytes such a word is written here at index 0x400 + i, unmapped while i < 1024, and wrapping mod 2^11 from there on (DBUF1024
is ID, DBUF1025 is CMD); for 2^32 bytes or more, LEN has no room for L, and L mod 2^32 is written. -/
def Asm.ldbuf (bs : List Byte) : List Event :=
  (List.range ((bs.length + 3) / 4)).map
      (fun i => Asm.wrBe (.dbuf i) (Asm.bufWord bs i) (Asm.bufEnables bs.length i))
    ++ [Asm.wr .len (BitVec.ofNat 32 bs.length)]

/-- `clrdone` (R308). -/
def Asm.clrdone : Event := Asm.wr .status 0x00000002

/-- `clrovr` (R308). -/
def Asm.clrovr : Event := Asm.wr .status 0x00000100

end Sys2Proof.Machine
end

