-- ==== Sys2Proof/WellFormed.lean ====
section
/-! DEFINITION. When a command and a parameter record are well formed.
Every term of `Instr` has an encoding (the indices are `Fin 16`), so what is left to check of a command is that its
quarter round is defined: the four indices of QRW are pairwise distinct (spec/40_quarter_round.md R402). A word with
repeated indices decodes (R305) to a command that is not well formed, and the machine completes it with ILLEGAL_INDEX. -/

namespace Sys2Proof

/-- QRWF is defined only for pairwise-distinct indices (R402); no other command has an index. -/
def Instr.wf : Instr → Bool
  | .qrw x y z w => decide ([x, y, z, w].Nodup)
  | .nop => true
  | .qr => true
  | .init => true
  | .copy => true
  | .dround => true
  | .mix => true
  | .addback => true
  | .block => true
  | .xor => true

/-- DBUF_WORDS is an integer 1..1024 (R6). BASE is OPEN and may be any address here, a multiple of 4 or
not (DESIGN CHOICE, log 13: the spec is silent). -/
def Params.wf (p : Params) : Bool := decide (1 ≤ p.dbufWords) && decide (p.dbufWords ≤ 1024)

end Sys2Proof
end

