-- ==== Sys2Proof/Safety.lean ====
section
/-! DEFINITION. What counts as a safe run: the invariant of the machine, and the terms the claims use. -/

namespace Sys2Proof.Machine

/-! ## The invariant -/

/-- A command that checks KEY_LEN and NONCE_LEN (spec/60_exceptions.md R602, "raised by"). -/
def usesKey : Instr → Bool
  | .init | .block | .xor => true
  | .nop | .qr | .qrw _ _ _ _ | .copy | .dround | .mix | .addback => false

/-- ERR fits the last accepted word (R602's columns "cause" and "raised by", as far as the word alone tells): OK comes only
of a legal word whose indices are distinct, a length error only of a command that checks lengths, ILLEGAL_COMMAND of exactly
the illegal words, ILLEGAL_INDEX of exactly QRW with repeated indices. -/
def errFitsWord (e : ErrCode) (c : Word) : Bool :=
  match decode c with
  | .illegal _ => e == .illegalCommand
  | .command i =>
      match e with
      | .ok => i.wf
      | .invalidKeyLength => usesKey i
      | .invalidNonceLength => usesKey i
      | .invalidDataLength => i == .xor
      | .illegalCommand => false
      | .illegalIndex => !i.wf

/-- The data buffer is in canonical form and lies inside 0 .. DBUF_BYTES-1 (spec/10_state.md R113). -/
abbrev State.dbufOk (s : State) : Prop := Memory.wf s.dbuf ∧ ∀ c ∈ s.dbuf, c.1 < s.dbufBytes

/-- While busy: `pending` is the word CMD reads, DONE is 0 and ERR is 0 (spec/20_memory.md R210, spec/10_state.md R116). -/
abbrev State.busyOk (s : State) : Prop := s.busy = true → s.pending = s.cmd ∧ s.done = false ∧ s.err = .ok

/-- While idle: ERR is a code the last accepted word can complete with. -/
abbrev State.idleOk (s : State) : Prop := s.busy = false → errFitsWord s.err s.cmd = true

/-- The invariant of the machine. -/
abbrev State.Inv (s : State) : Prop := s.params.wf = true ∧ s.dbufOk ∧ s.busyOk ∧ s.idleOk

/-! ## Runs -/

/-- The sequencer moves next: it is its turn, or nothing else is left to happen. -/
def State.sequencerNext (s : State) : Bool :=
  match s.inputs with
  | [] => true
  | .sequencer :: _ => true
  | .host _ :: _ => false
  | .reset :: _ => false

/-- What the machine answers when the outside does exactly `es` from `s`, one step an entry. -/
def runEvents (es : List Event) (s : State) : Result :=
  Host.Core.run Sys2Proof.core es.length { s with inputs := es }

/-- The host issues these commands one after another, each completed before the next is written. -/
def commandEvents (is : List Instr) : List Event := is.flatMap fun i => [Asm.command i, .sequencer]

/-! ## Terms of the claims -/

/-- `v` is `old` with exactly the enabled lanes taken from `new`: R206's `for j in 0 .. 4: if be[j] = 1 then
reg[8j+7:8j] <- data[8j+7:8j]`, said of the result. -/
def LanesMerged (old new : Word) (be : BitVec 4) (v : Word) : Prop :=
  ∀ j : Fin 4, v.extractLsb' (8 * j.val) 8 =
    if be.getLsbD j.val then new.extractLsb' (8 * j.val) 8 else old.extractLsb' (8 * j.val) 8

/-- `v` is the byte array `old` with word i written: R206's `for j in 0 .. 4: if be[j] = 1 then K[4i+j] <- data[8j+7:8j]`,
said of the result. -/
def BytesMerged {n : Nat} (old : Vector Byte n) (i : Nat) (new : Word) (be : BitVec 4) (v : Vector Byte n) : Prop :=
  ∀ p : Fin n, v[p] = if p.val / 4 = i ∧ be.getLsbD (p.val % 4) = true then new.extractLsb' (8 * (p.val % 4)) 8 else old[p]

/-- The four index sets of a column round (R441, R449). -/
def columnSets : List (Fin 16 × Fin 16 × Fin 16 × Fin 16) := [(0, 4, 8, 12), (1, 5, 9, 13), (2, 6, 10, 14), (3, 7, 11, 15)]

/-- The four index sets of a diagonal round (R441, R449). -/
def diagonalSets : List (Fin 16 × Fin 16 × Fin 16 × Fin 16) := [(0, 5, 10, 15), (1, 6, 11, 12), (2, 7, 8, 13), (3, 4, 9, 14)]

/-- Quarter rounds at these index sets, in the order of the list. -/
def quarterRoundsAt (l : List (Fin 16 × Fin 16 × Fin 16 × Fin 16)) (v : Words16) : Words16 :=
  l.foldl (fun v q => qrwf v q.1 q.2.1 q.2.2.1 q.2.2.2) v

end Sys2Proof.Machine
end

