-- ==== Sys2Proof/Certificates/Slice0/Obligations.lean ====
section
/-! DEFINITION. The statements about the machine, for the provers. Each docstring names the rule of spec/ it formalises.
A next state written as `s` with fields changed also says what becomes of the fields that no rule constrains, and that part is
the model's choice: `pending` keeps its word after a completion (log 5), and `inputs`, `responses`, `draws` and `dbufEpoch`
are the model's own (logs 1, 7, 4, 3). -/

open Sys2Proof Sys2Proof.Machine

/-! ## Words, bytes and the command word -/

/-- R9, R10: `add32` is addition mod 2^32, and `rotl32` rotates towards the more significant end: bit i of the result is
bit i - n (mod 32) of the operand. -/
def Obligations.AddWrapsAndRotateMovesBitsUp : Prop :=
  (∀ a b : Word, (add32 a b).toNat = (a.toNat + b.toNat) % 2 ^ 32) ∧
  ∀ (v : Word) (n : Nat), 0 < n → n < 32 →
    (rotl32 v n).toNat = (v.toNat * 2 ^ n ||| v.toNat / 2 ^ (32 - n)) % 2 ^ 32 ∧
    ∀ i : Nat, i < 32 → (rotl32 v n).getLsbD i = v.getLsbD ((i + 32 - n) % 32)

/-- R11: `le32` weighs byte j by 256^j, its lanes are its bytes, and `bytes_le` inverts it. -/
def Obligations.LittleEndianConversionsAreInverse : Prop :=
  (∀ b0 b1 b2 b3 : Byte,
    (le32 b0 b1 b2 b3).toNat = b0.toNat + 256 * b1.toNat + 65536 * b2.toNat + 16777216 * b3.toNat ∧
    bytesLe (le32 b0 b1 b2 b3) = [b0, b1, b2, b3]) ∧
  ∀ w : Word,
    bytesLe w = [w.extractLsb' 0 8, w.extractLsb' 8 8, w.extractLsb' 16 8, w.extractLsb' 24 8] ∧
    le32 (w.extractLsb' 0 8) (w.extractLsb' 8 8) (w.extractLsb' 16 8) (w.extractLsb' 24 8) = w

/-- R303: words written out from the opcode map, and illegal ones. -/
def Obligations.WrittenOutWordsDecode : Prop :=
  decode 0x00000000 = .command .nop ∧ decode 0x00000001 = .command .qr ∧
  decode 0x00D87202 = .command (.qrw 2 7 8 13) ∧ decode 0x00321102 = .command (.qrw 1 1 2 3) ∧
  decode 0x00000003 = .command .init ∧ decode 0x00000004 = .command .copy ∧
  decode 0x00000005 = .command .dround ∧ decode 0x00000006 = .command .mix ∧
  decode 0x00000007 = .command .addback ∧ decode 0x00000008 = .command .block ∧
  decode 0x00000009 = .command .xor ∧
  (decode 0x0000000A).instr? = none ∧ (decode 0x00000011).instr? = none ∧
  (decode 0x00000103).instr? = none ∧ (decode 0x01000000).instr? = none

/-- R303, R307: decoding the encoding of any command, at every value of its indices, gives the command back. -/
def Obligations.DecodeOfEncodeIsTheCommand : Prop :=
  ∀ i : Instr, decode (encode i) = .command i

/-- R303: each legal word has one meaning, and it is the encoding of it. -/
def Obligations.EncodeOfDecodeIsTheWord : Prop :=
  ∀ (c : Word) (i : Instr), decode c = .command i → encode i = c

/-- R303 with spec/opcode_table.json: the first row a word matches is its command's, and a word that matches no row is
illegal. -/
def Obligations.TheOpcodeTableIsTheDecoder : Prop :=
  ∀ c : Word, (opcodeTable.find? (·.matches c)).map (·.mnemonic) = (decode c).instr?.map Instr.mnemonic

/-- R302: the indices of QRW are the fields of the word, unsigned. -/
def Obligations.QrwIndicesAreTheFields : Prop :=
  ∀ (c : Word) (x y z w : Fin 16), decode c = .command (.qrw x y z w) →
    x.val = c.toNat / 2 ^ 8 % 16 ∧ y.val = c.toNat / 2 ^ 12 % 16 ∧
    z.val = c.toNat / 2 ^ 16 % 16 ∧ w.val = c.toNat / 2 ^ 20 % 16

/-- R304: which words are legal, how many there are, and that the others complete with ILLEGAL_COMMAND and change nothing
else. -/
def Obligations.StrictDecodeAndItsError : Prop :=
  (∀ c : Word, (∃ i, decode c = .command i) ↔
    (c.extractLsb' 0 4).toNat ≤ 0x9 ∧ c.extractLsb' 4 4 = 0 ∧ c.extractLsb' 24 8 = 0 ∧
      (c.extractLsb' 0 4 = 0x2 ∨ c.extractLsb' 8 16 = 0)) ∧
  Nat.card { c : Word // ∃ i, decode c = .command i } = 10 + 65535 ∧
  ∀ s : State, (∀ i, decode s.pending ≠ .command i) →
    sequencerStep s = .next { s with busy := false, done := true, err := .illegalCommand }

/-- R305: QRW words with repeated indices decode as QRW, complete with ILLEGAL_INDEX without changing W, and there are
21856 of them. -/
def Obligations.RepeatedIndicesDecodeAndFail : Prop :=
  (∀ (x y z w : Fin 16), ¬ [x, y, z, w].Nodup →
    decode (encode (.qrw x y z w)) = .command (.qrw x y z w) ∧
    ∀ s : State, exec (.qrw x y z w) s = .next { s with busy := false, done := true, err := .illegalIndex }) ∧
  Nat.card { c : Word // ∃ x y z w, decode c = .command (.qrw x y z w) ∧ ¬ [x, y, z, w].Nodup } = 21856

/-! ## The step -/

/-- R214, R102: when a command is running and the sequencer moves next, the step is the meaning of the command its pending
word decodes to, at the state with the served entry of `inputs` taken off. -/
def Obligations.StepRunsTheDecodedCommand : Prop :=
  ∀ (s : State) (i : Instr), s.busy = true → s.sequencerNext = true → decode s.pending = .command i →
    step s = exec i { s with inputs := s.inputs.tail }

/-- R492: an illegal word completes with ILLEGAL_COMMAND; STATUS is all that changes and CMD reads back the word; and the
rule's example, `wr CMD, 0x0000000A` then `wait`, with OVR = 0. The model's choices in it (each a DESIGN CHOICE): the reads
are seen in `responses` (log 7), `wait` is log 15's schedule of the polls, and `pending` keeps the word while idle, which U17
leaves open (log 5). -/
def Obligations.IllegalWordCompletesWithItsError : Prop :=
  (∀ s : State, s.busy = true → s.sequencerNext = true → (∀ i, decode s.pending ≠ .command i) →
    step s = .next { s with inputs := s.inputs.tail, busy := false, done := true, err := .illegalCommand }) ∧
  (∀ (c : Word), (∀ i, decode c ≠ .command i) → ∀ s : State, s.busy = false →
    ∃ t, runEvents [Asm.wr .cmd c, .sequencer, Asm.rd .cmd] s = .next t ∧
      t = { s with inputs := [], pending := c, cmd := c, done := true, err := .illegalCommand, responses := c :: s.responses }) ∧
  ∀ (s : State) (polls : Nat), s.busy = false → s.ovr = false →
    ∃ t, runEvents (Asm.wr .cmd 0x0000000A :: Asm.wait polls) s = .next t ∧ t.responses.head? = some 0x00000042

/-- No step stops: the core has no traps (R601), bus accesses never raise an error (R606), and no behaviour is stuck. -/
def Obligations.EveryStepHasANextState : Prop :=
  ∀ s : State, ∃ t, step s = .next t

/-! ## The quarter-round family -/

/-- R401: QRF is its twelve steps, and the source's vector. -/
def Obligations.QuarterRoundIsTheTwelveSteps : Prop :=
  (∀ a b c d : Word, qrf a b c d =
    let a1 := a + b
    let d1 := (d ^^^ a1).rotateLeft 16
    let c1 := c + d1
    let b1 := (b ^^^ c1).rotateLeft 12
    let a2 := a1 + b1
    let d2 := (d1 ^^^ a2).rotateLeft 8
    let c2 := c1 + d2
    let b2 := (b1 ^^^ c2).rotateLeft 7
    (a2, b2, c2, d2)) ∧
  qrf 0x11111111 0x01020304 0x9b8d6f43 0x01234567 = (0xea2a92f4, 0xcb1cf8ce, 0x4581472e, 0x5881c4bb)

/-- QRF is a bijection on 4-tuples of words: R406's sentence, which the spec marks as derived from R401. -/
def Obligations.QuarterRoundIsABijection : Prop :=
  Function.Bijective fun q : Word × Word × Word × Word => qrf q.1 q.2.1 q.2.2.1 q.2.2.2

/-- R402: the quarter round in place changes exactly its four positions. -/
def Obligations.QuarterRoundInPlaceWritesFourPositions : Prop :=
  ∀ (v : Words16) (x y z w : Fin 16), [x, y, z, w].Nodup →
    ((qrwf v x y z w)[x], (qrwf v x y z w)[y], (qrwf v x y z w)[z], (qrwf v x y z w)[w]) = qrf v[x] v[y] v[z] v[w] ∧
    ∀ i : Fin 16, i ≠ x → i ≠ y → i ≠ z → i ≠ w → (qrwf v x y z w)[i] = v[i]

/-- R403: QR. That QRF(0x80000000, 0x80000000, 0, 0) has this value is V-Q7 of 95_test_vectors.md section 2.1, which the spec
marks as its own derivation; R403 says only that the first addition wraps to 0. -/
def Obligations.QrWritesTheFourQuarterRoundRegisters : Prop :=
  decode 0x00000001 = .command .qr ∧
  (∀ s : State, exec .qr s = .next { s with
    qa := (qrf s.qa s.qb s.qc s.qd).1
    qb := (qrf s.qa s.qb s.qc s.qd).2.1
    qc := (qrf s.qa s.qb s.qc s.qd).2.2.1
    qd := (qrf s.qa s.qb s.qc s.qd).2.2.2
    busy := false, done := true, err := .ok }) ∧
  qrf 0 0 0 0 = (0, 0, 0, 0) ∧
  add32 0x80000000 0x80000000 = 0 ∧ qrf 0x80000000 0x80000000 0 0 = (0x00000800, 0x04040000, 0x00080000, 0x00080000) ∧
  qrf 0x11111111 0x01020304 0x9b8d6f43 0x01234567 = (0xea2a92f4, 0xcb1cf8ce, 0x4581472e, 0x5881c4bb)

/-- R404: QRW, for every quadruple of indices, and the worked example. -/
def Obligations.QrwActsInPlaceOrRefusesItsIndices : Prop :=
  (∀ (x y z w : Fin 16) (s : State),
    decode (0x00000002 ||| BitVec.ofNat 32 x.val <<< 8 ||| BitVec.ofNat 32 y.val <<< 12 ||| BitVec.ofNat 32 z.val <<< 16
      ||| BitVec.ofNat 32 w.val <<< 20) = .command (.qrw x y z w) ∧
    ([x, y, z, w].Nodup → ∃ v : Words16,
      exec (.qrw x y z w) s = .next { s with regW := v, busy := false, done := true, err := .ok } ∧
      (v[x], v[y], v[z], v[w]) = qrf s.regW[x] s.regW[y] s.regW[z] s.regW[w] ∧
      ∀ i : Fin 16, i ∉ [x, y, z, w] → v[i] = s.regW[i]) ∧
    (¬ [x, y, z, w].Nodup →
      exec (.qrw x y z w) s = .next { s with busy := false, done := true, err := .illegalIndex })) ∧
  decode 0x00D87202 = .command (.qrw 2 7 8 13) ∧
  ∀ s : State, s.regW =
      #v[0x879531e0, 0xc5ecf37d, 0x516461b1, 0xc9a62f8a, 0x44c20ef3, 0x3390af7f, 0xd9fc690b, 0x2a5f714c,
         0x53372767, 0xb00a5631, 0x974c541a, 0x359e9963, 0x5c971061, 0x3d631689, 0x2098d9d6, 0x91dbd320] →
    exec (.qrw 2 7 8 13) s = .next { s with
      regW := #v[0x879531e0, 0xc5ecf37d, 0xbdb886dc, 0xc9a62f8a, 0x44c20ef3, 0x3390af7f, 0xd9fc690b, 0xcfacafd2,
         0xe46bea80, 0xb00a5631, 0x974c541a, 0x359e9963, 0x5c971061, 0xccc07c79, 0x2098d9d6, 0x91dbd320]
      busy := false, done := true, err := .ok }

/-! ## State initialisation -/

/-- R421: INITF, index by index, and its constants as the ASCII bytes "expand 32-byte k" (the sentence of R421 on the
ASCII bytes is marked by the spec as derived: le32 of R11). -/
def Obligations.InitialStateLayout : Prop :=
  (∀ (k : Vector Byte 32) (ctr : Word) (n : Vector Byte 12),
    (initF k ctr n)[0] = 0x61707865 ∧ (initF k ctr n)[1] = 0x3320646e ∧
    (initF k ctr n)[2] = 0x79622d32 ∧ (initF k ctr n)[3] = 0x6b206574 ∧
    (∀ i : Fin 8, (initF k ctr n)[4 + i.val] = le32 k[4 * i.val] k[4 * i.val + 1] k[4 * i.val + 2] k[4 * i.val + 3]) ∧
    (initF k ctr n)[12] = ctr ∧
    (∀ i : Fin 3, (initF k ctr n)[13 + i.val] = le32 n[4 * i.val] n[4 * i.val + 1] n[4 * i.val + 2] n[4 * i.val + 3])) ∧
  le32 0x65 0x78 0x70 0x61 = 0x61707865 ∧ le32 0x6e 0x64 0x20 0x33 = 0x3320646e ∧
  le32 0x32 0x2d 0x62 0x79 = 0x79622d32 ∧ le32 0x74 0x65 0x20 0x6b = 0x6b206574

/-- R422: INIT, with its two checks in their order, and the worked example. -/
def Obligations.InitWritesOnlyTheInitialState : Prop :=
  decode 0x00000003 = .command .init ∧
  (∀ s : State, s.keyLen ≠ 32 →
    exec .init s = .next { s with busy := false, done := true, err := .invalidKeyLength }) ∧
  (∀ s : State, s.keyLen = 32 → s.nonceLen ≠ 12 →
    exec .init s = .next { s with busy := false, done := true, err := .invalidNonceLength }) ∧
  (∀ s : State, s.keyLen = 32 → s.nonceLen = 12 →
    exec .init s = .next { s with
      regS := initF s.keyBytes s.counter s.nonceBytes, busy := false, done := true, err := .ok }) ∧
  initF (Vector.ofFn fun i => BitVec.ofNat 8 i.val) 1 #v[0, 0, 0, 0x09, 0, 0, 0, 0x4a, 0, 0, 0, 0] =
    #v[0x61707865, 0x3320646e, 0x79622d32, 0x6b206574, 0x03020100, 0x07060504, 0x0b0a0908, 0x0f0e0d0c,
       0x13121110, 0x17161514, 0x1b1a1918, 0x1f1e1d1c, 0x00000001, 0x09000000, 0x4a000000, 0x00000000]

/-- What S holds after INIT or BLOCK completed OK, and that no other command writes S: R423, which the spec marks as derived
from R421, R422 and R447. -/
def Obligations.InitialStateInvariantAndItsWriters : Prop :=
  (∀ (i : Instr) (s t : State), i = .init ∨ i = .block → exec i s = .next t → t.err = .ok →
    t.regS[0] = 0x61707865 ∧ t.regS[1] = 0x3320646e ∧ t.regS[2] = 0x79622d32 ∧ t.regS[3] = 0x6b206574 ∧
    (∀ j : Fin 8, t.regS[4 + j.val] = le32 t.keyBytes[4 * j.val] t.keyBytes[4 * j.val + 1] t.keyBytes[4 * j.val + 2]
      t.keyBytes[4 * j.val + 3]) ∧
    t.regS[12] = t.counter ∧
    (∀ j : Fin 3, t.regS[13 + j.val] = le32 t.nonceBytes[4 * j.val] t.nonceBytes[4 * j.val + 1] t.nonceBytes[4 * j.val + 2]
      t.nonceBytes[4 * j.val + 3])) ∧
  ∀ (i : Instr) (s t : State), i ≠ .init → i ≠ .block → exec i s = .next t → t.regS = s.regS

/-! ## The block function -/

/-- R441: the double round is these eight quarter rounds, in this order. -/
def Obligations.DoubleRoundIsItsEightQuarterRounds : Prop :=
  ∀ v : Words16, drf v =
    qrwf (qrwf (qrwf (qrwf (qrwf (qrwf (qrwf (qrwf v 0 4 8 12) 1 5 9 13) 2 6 10 14) 3 7 11 15)
      0 5 10 15) 1 6 11 12) 2 7 8 13) 3 4 9 14

/-- R442: ten double rounds, and the word-wise sum of the initial and the mixed state. -/
def Obligations.BlockFunctionIsTenDoubleRoundsAddedBack : Prop :=
  (∀ v : Words16, mixF v = drf (drf (drf (drf (drf (drf (drf (drf (drf (drf v)))))))))) ∧
  ∀ (k : Vector Byte 32) (ctr : Word) (n : Vector Byte 12) (i : Fin 16),
    (blockF k ctr n)[i] = (initF k ctr n)[i] + (mixF (initF k ctr n))[i]

/-- R443: COPY. -/
def Obligations.CopyCopiesTheInitialState : Prop :=
  decode 0x00000004 = .command .copy ∧
  ∀ s : State, exec .copy s = .next { s with regW := s.regS, busy := false, done := true, err := .ok }

/-- R444: DROUND; the all-zero W is a fixed point; the worked example (which R444 marks as derived from R441, not
from a run). -/
def Obligations.DroundAppliesOneDoubleRound : Prop :=
  decode 0x00000005 = .command .dround ∧
  (∀ s : State, exec .dround s = .next { s with regW := drf s.regW, busy := false, done := true, err := .ok }) ∧
  drf (Vector.replicate 16 0) = Vector.replicate 16 0 ∧
  drf #v[0x61707865, 0x3320646e, 0x79622d32, 0x6b206574, 0x03020100, 0x07060504, 0x0b0a0908, 0x0f0e0d0c,
         0x13121110, 0x17161514, 0x1b1a1918, 0x1f1e1d1c, 0x00000001, 0x09000000, 0x4a000000, 0x00000000] =
    #v[0xcd52e917, 0x85ab03b4, 0xb3457395, 0xf96de7dd, 0xc4b7cd22, 0x5c2e187a, 0xc95eb461, 0x316c801a,
       0x7bf7d740, 0x7eddd644, 0xf1a1bdf5, 0x761246ca, 0x6b0d58a3, 0x6798471a, 0xd737f167, 0xf173888d]

/-- R445: MIX is the double round ten times; "MIX equals ten DROUND commands in sequence" (which R445 marks as derived from
R442 and R444); the worked example (which R445 marks as derived from R442, not from a run). -/
def Obligations.MixAppliesTenDoubleRounds : Prop :=
  decode 0x00000006 = .command .mix ∧
  (∀ s : State, exec .mix s = .next { s with regW := drf^[10] s.regW, busy := false, done := true, err := .ok }) ∧
  (∀ s : State, s.busy = false → ∃ t u,
    runEvents (commandEvents (List.replicate 10 .dround)) s = .next t ∧
    runEvents (commandEvents [.mix]) s = .next u ∧
    t.regW = u.regW ∧ u.regS = s.regS ∧ u.regOut = s.regOut) ∧
  drf^[10] (#v[0x61707865, 0x3320646e, 0x79622d32, 0x6b206574, 0x03020100, 0x07060504, 0x0b0a0908, 0x0f0e0d0c,
         0x13121110, 0x17161514, 0x1b1a1918, 0x1f1e1d1c, 0x00000001, 0x09000000, 0x4a000000, 0x00000000] : Words16) =
    #v[0x837778ab, 0xe238d763, 0xa67ae21e, 0x5950bb2f, 0xc4f2d0c7, 0xfc62bb2f, 0x8fa018fc, 0x3f5ec7b7,
       0x335271c2, 0xf29489f3, 0xeabda8fc, 0x82e46ebd, 0xd19c12b4, 0xb04e16de, 0x9e83d0cb, 0x4e3c50a2]

/-- R446: ADDBACK, lane by lane, and its two examples. -/
def Obligations.AddbackAddsLaneByLane : Prop :=
  decode 0x00000007 = .command .addback ∧
  (∀ s : State, ∃ v : Words16,
    exec .addback s = .next { s with regOut := v, busy := false, done := true, err := .ok } ∧
    ∀ i : Fin 16, v[i].toNat = (s.regS[i].toNat + s.regW[i].toNat) % 2 ^ 32) ∧
  (∀ (s t : State) (i : Fin 16), s.regS[i] = 0xFFFFFFFF → s.regW[i] = 0x00000002 → exec .addback s = .next t →
    t.regOut[i] = 0x00000001) ∧
  ∀ s : State,
    s.regS =
      #v[0x61707865, 0x3320646e, 0x79622d32, 0x6b206574, 0x03020100, 0x07060504, 0x0b0a0908, 0x0f0e0d0c,
         0x13121110, 0x17161514, 0x1b1a1918, 0x1f1e1d1c, 0x00000001, 0x09000000, 0x4a000000, 0x00000000] →
    s.regW =
      #v[0x837778ab, 0xe238d763, 0xa67ae21e, 0x5950bb2f, 0xc4f2d0c7, 0xfc62bb2f, 0x8fa018fc, 0x3f5ec7b7,
         0x335271c2, 0xf29489f3, 0xeabda8fc, 0x82e46ebd, 0xd19c12b4, 0xb04e16de, 0x9e83d0cb, 0x4e3c50a2] →
    exec .addback s = .next { s with
      regOut :=
        #v[0xe4e7f110, 0x15593bd1, 0x1fdd0f50, 0xc47120a3, 0xc7f4d1c7, 0x0368c033, 0x9aaa2204, 0x4e6cd4c3,
           0x466482d2, 0x09aa9f07, 0x05d7c214, 0xa2028bd9, 0xd19c12b5, 0xb94e16de, 0xe883d0cb, 0x4e3c50a2]
      busy := false, done := true, err := .ok }

/-- R447: BLOCK, its checks, that its result depends only on K, COUNTER and N (the bullet that R447 marks as derived from
R442), and the worked example. -/
def Obligations.BlockComputesTheBlockFunction : Prop :=
  decode 0x00000008 = .command .block ∧
  (∀ s : State, s.keyLen ≠ 32 →
    exec .block s = .next { s with busy := false, done := true, err := .invalidKeyLength }) ∧
  (∀ s : State, s.keyLen = 32 → s.nonceLen ≠ 12 →
    exec .block s = .next { s with busy := false, done := true, err := .invalidNonceLength }) ∧
  (∀ s : State, s.keyLen = 32 → s.nonceLen = 12 → ∃ o : Words16,
    exec .block s = .next { s with
      regS := initF s.keyBytes s.counter s.nonceBytes
      regW := mixF (initF s.keyBytes s.counter s.nonceBytes)
      regOut := o, busy := false, done := true, err := .ok } ∧
    ∀ i : Fin 16, o[i] = (initF s.keyBytes s.counter s.nonceBytes)[i] + (mixF (initF s.keyBytes s.counter s.nonceBytes))[i]) ∧
  (∀ s s' t t' : State, s.keyBytes = s'.keyBytes → s.counter = s'.counter → s.nonceBytes = s'.nonceBytes →
    exec .block s = .next t → exec .block s' = .next t' → t.err = .ok → t'.err = .ok → t.regOut = t'.regOut) ∧
  blockF (Vector.ofFn fun i => BitVec.ofNat 8 i.val) 1 #v[0, 0, 0, 0x09, 0, 0, 0, 0x4a, 0, 0, 0, 0] =
    #v[0xe4e7f110, 0x15593bd1, 0x1fdd0f50, 0xc47120a3, 0xc7f4d1c7, 0x0368c033, 0x9aaa2204, 0x4e6cd4c3,
       0x466482d2, 0x09aa9f07, 0x05d7c214, 0xa2028bd9, 0xd19c12b5, 0xb94e16de, 0xe883d0cb, 0x4e3c50a2] ∧
  (ser (blockF (Vector.ofFn fun i => BitVec.ofNat 8 i.val) 1 #v[0, 0, 0, 0x09, 0, 0, 0, 0x4a, 0, 0, 0, 0])).take 8 =
    [0x10, 0xf1, 0xe7, 0xe4, 0xd1, 0x3b, 0x59, 0x15]

/-- R448, which the spec marks as derived from R422, R443 and R445 to R447: INIT; COPY; MIX; ADDBACK, and INIT; COPY; DROUND x10;
ADDBACK, issued by the host from an idle state with the right lengths, leave S, W and OUT as one BLOCK leaves them. -/
def Obligations.SubCommandsComposeToBlock : Prop :=
  ∀ s : State, s.busy = false → s.keyLen = 32 → s.nonceLen = 12 → ∃ b m d,
    runEvents (commandEvents [.block]) s = .next b ∧
    runEvents (commandEvents [.init, .copy, .mix, .addback]) s = .next m ∧
    runEvents (commandEvents ([.init, .copy] ++ List.replicate 10 .dround ++ [.addback])) s = .next d ∧
    (m.regS = b.regS ∧ m.regW = b.regW ∧ m.regOut = b.regOut) ∧
    (d.regS = b.regS ∧ d.regW = b.regW ∧ d.regOut = b.regOut)

/-- R449, which the spec marks as derived from R402 and R441: the quarter rounds of one round act on disjoint index sets, and
in any order they give the round. -/
def Obligations.QuarterRoundsOfOneRoundCommute : Prop :=
  (columnSets.flatMap fun q => [q.1, q.2.1, q.2.2.1, q.2.2.2]).Nodup ∧
  (diagonalSets.flatMap fun q => [q.1, q.2.1, q.2.2.1, q.2.2.2]).Nodup ∧
  ∀ v : Words16,
    drf v = quarterRoundsAt diagonalSets (quarterRoundsAt columnSets v) ∧
    (∀ l, l.Perm columnSets → quarterRoundsAt l v = quarterRoundsAt columnSets v) ∧
    (∀ l, l.Perm diagonalSets → quarterRoundsAt l v = quarterRoundsAt diagonalSets v)

/-- R450: serialisation, and that the host reads it lane by lane from OUT. -/
def Obligations.SerialisationIsTheLaneViewOfOut : Prop :=
  (∀ o : Words16, (ser o).length = 64 ∧
    ∀ (i : Fin 16) (j : Fin 4), (ser o)[4 * i.val + j.val]? = some (o[i].extractLsb' (8 * j.val) 8)) ∧
  ∀ (s : State) (i : Fin 16) (j : Fin 4), s.busy = false →
    some ((s.busRead (BitVec.ofNat 11 (0x040 + i.val))).extractLsb' (8 * j.val) 8) = (ser s.regOut)[4 * i.val + j.val]?

/-! ## Keystream XOR -/

/-- R471: CHACHAF keeps the length, and its byte p is the input's byte p XORed with byte p mod 64 of the serialised block
for the counter c0 + p div 64. -/
def Obligations.CipherXorsEachByteWithItsKeystreamByte : Prop :=
  ∀ (k : Vector Byte 32) (c0 : Word) (n : Vector Byte 12) (d : List Byte),
    (chachaF k c0 n d).length = d.length ∧
    ∀ (p : Nat) (x : Byte), d[p]? = some x → ∃ y,
      (ser (blockF k (add32 c0 (BitVec.ofNat 32 (p / 64))) n))[p % 64]? = some y ∧
      (chachaF k c0 n d)[p]? = some (x ^^^ y)

/-- R473, R474: XOR. Its three checks come first, in their order, and a failed check changes nothing but STATUS. Else
DBUF[0..LEN-1] is transformed, every other byte of DBUF reads as before, and nothing but DBUF and STATUS changes. The worked
example ("Sunscreen") closes it. -/
def Obligations.XorChecksItsLengthsThenTransformsInPlace : Prop :=
  decode 0x00000009 = .command .xor ∧
  (∀ s : State, s.keyLen ≠ 32 →
    exec .xor s = .next { s with busy := false, done := true, err := .invalidKeyLength }) ∧
  (∀ s : State, s.keyLen = 32 → s.nonceLen ≠ 12 →
    exec .xor s = .next { s with busy := false, done := true, err := .invalidNonceLength }) ∧
  (∀ s : State, s.keyLen = 32 → s.nonceLen = 12 → 4 * s.params.dbufWords < s.len.toNat →
    exec .xor s = .next { s with busy := false, done := true, err := .invalidDataLength }) ∧
  (∀ s : State, s.keyLen = 32 → s.nonceLen = 12 → s.len.toNat ≤ 4 * s.params.dbufWords → ∃ m : Memory,
    exec .xor s = .next { s with dbuf := m, busy := false, done := true, err := .ok } ∧
    ∀ a : Nat, State.memRead { s with dbuf := m } a =
      if a < s.len.toNat then
        s.memRead a ^^^
          (ser (blockF s.keyBytes (add32 s.counter (BitVec.ofNat 32 (a / 64))) s.nonceBytes)).getD (a % 64) 0
      else s.memRead a) ∧
  ∀ s t : State,
    (∀ i : Fin 32, s.keyBytes[i] = BitVec.ofNat 8 i.val) → s.keyLen = 32 →
    s.nonceBytes = #v[0, 0, 0, 0, 0, 0, 0, 0x4a, 0, 0, 0, 0] → s.nonceLen = 12 → s.counter = 1 →
    s.len = 114 → 114 ≤ 4 * s.params.dbufWords →
    (∀ (p : Nat) (x : Byte), (
        [0x4c, 0x61, 0x64, 0x69, 0x65, 0x73, 0x20, 0x61, 0x6e, 0x64, 0x20, 0x47, 0x65, 0x6e, 0x74, 0x6c, 0x65, 0x6d, 0x65] ++
        [0x6e, 0x20, 0x6f, 0x66, 0x20, 0x74, 0x68, 0x65, 0x20, 0x63, 0x6c, 0x61, 0x73, 0x73, 0x20, 0x6f, 0x66, 0x20, 0x27] ++
        [0x39, 0x39, 0x3a, 0x20, 0x49, 0x66, 0x20, 0x49, 0x20, 0x63, 0x6f, 0x75, 0x6c, 0x64, 0x20, 0x6f, 0x66, 0x66, 0x65] ++
        [0x72, 0x20, 0x79, 0x6f, 0x75, 0x20, 0x6f, 0x6e, 0x6c, 0x79, 0x20, 0x6f, 0x6e, 0x65, 0x20, 0x74, 0x69, 0x70, 0x20] ++
        [0x66, 0x6f, 0x72, 0x20, 0x74, 0x68, 0x65, 0x20, 0x66, 0x75, 0x74, 0x75, 0x72, 0x65, 0x2c, 0x20, 0x73, 0x75, 0x6e] ++
        [0x73, 0x63, 0x72, 0x65, 0x65, 0x6e, 0x20, 0x77, 0x6f, 0x75, 0x6c, 0x64, 0x20, 0x62, 0x65, 0x20, 0x69, 0x74, 0x2e]
        : List Byte)[p]? = some x → s.memRead p = x) →
    exec .xor s = .next t →
    (List.range 8).map t.memRead = [0x6e, 0x2e, 0x35, 0x9a, 0x25, 0x68, 0xf9, 0x80]

/-- XOR twice restores every byte of the data buffer: R475, which the spec marks as derived from R471 and R474. -/
def Obligations.XorTwiceRestoresTheBuffer : Prop :=
  ∀ s : State, s.keyLen = 32 → s.nonceLen = 12 → s.len.toNat ≤ 4 * s.params.dbufWords → ∃ t u,
    exec .xor s = .next t ∧ exec .xor t = .next u ∧ ∀ a : Nat, u.memRead a = s.memRead a

/-- The result byte p depends only on input byte p, K, N and the counter of its block: R477, which the spec marks as derived
from R471. -/
def Obligations.XorResultByteDependsOnlyOnItsInputs : Prop :=
  ∀ (s s' t t' : State) (p : Nat), s.keyBytes = s'.keyBytes → s.nonceBytes = s'.nonceBytes →
    add32 s.counter (BitVec.ofNat 32 (p / 64)) = add32 s'.counter (BitVec.ofNat 32 (p / 64)) →
    s.memRead p = s'.memRead p → p < s.len.toNat → p < s'.len.toNat →
    exec .xor s = .next t → exec .xor s' = .next t' → t.err = .ok → t'.err = .ok → t.memRead p = t'.memRead p

/-- R477 (which the spec marks as derived from R471) and R614: computing the blocks one by one in ANY order, each XORed in
place, gives exactly the state of the atomic command (so PAR_BLOCKS is not observable, U3, log 11). -/
def Obligations.BlockOrderOfXorIsNotObservable : Prop :=
  ∀ (s : State) (l : List Nat), s.dbufOk → s.keyLen = 32 → s.nonceLen = 12 → s.len.toNat ≤ 4 * s.params.dbufWords →
    l.Perm (List.range ((s.len.toNat + 63) / 64)) →
    exec .xor s = .next { l.foldl State.xorChunk s with busy := false, done := true, err := .ok }

/-- R478, which the spec marks as derived from R471 and R473: a message cut after a multiple of 64 bytes, the second piece run with the counter advanced by the blocks done,
gives the cipher of the whole message. -/
def Obligations.MessagesSplitAtBlockBoundaries : Prop :=
  ∀ (k : Vector Byte 32) (c0 : Word) (n : Vector Byte 12) (d e : List Byte), 64 ∣ d.length →
    chachaF k c0 n (d ++ e) =
      chachaF k c0 n d ++ chachaF k (add32 c0 (BitVec.ofNat 32 (d.length / 64))) n e

/-! ## Errors and completion -/

/-- R491: NOP, and that accepting it clears a stale ERR. -/
def Obligations.NopOnlyCompletes : Prop :=
  decode 0x00000000 = .command .nop ∧
  (∀ s : State, exec .nop s = .next { s with busy := false, done := true, err := .ok }) ∧
  (∀ s t : State, exec .nop s = .next t → s.ovr = false → t.statusWord = 0x00000002) ∧
  (∀ s : State, s.busy = false → ∃ t, runEvents [Asm.command .nop] s = .next t ∧ t.busy = true ∧ t.err = .ok) ∧
  State.reset.cmd = encode .nop ∧ State.reset.busy = false

/-- R601, R603: every completion sets DONE, clears BUSY and reports one code; a failed command makes no other write; and
after a command that failed the state is the state before it was issued, except STATUS and CMD, which reads back its word
(`pending` is not compared: it is unused while idle, log 5). -/
def Obligations.EveryCommandCompletesAndErrorsArePrecise : Prop :=
  (∀ s : State, ∃ t, sequencerStep s = .next t ∧ t.busy = false ∧ t.done = true ∧
    (t.err ≠ .ok → t = { s with busy := false, done := true, err := t.err })) ∧
  ∀ (s : State) (c : Word) (be : BitVec 4), s.busy = false →
    ∃ t, runEvents [.host (.write 0x001 c be), .sequencer] s = .next t ∧
      (t.err ≠ .ok → t = { s with
        inputs := [], pending := t.pending, cmd := c, busy := false, done := true, err := t.err })

/-- R604, R602: the code of a completion, as STATUS[7:4] reads, is the first that applies, in the rule's order. -/
def Obligations.CompletionCodeIsTheFirstErrorThatApplies : Prop :=
  ∀ s t : State, sequencerStep s = .next t →
    let op := (s.pending.extractLsb' 0 4).toNat
    let keyed := op = 0x3 ∨ op = 0x8 ∨ op = 0x9
    t.statusWord.extractLsb' 4 4 =
      if ¬ (op ≤ 0x9 ∧ s.pending.extractLsb' 4 4 = 0 ∧ s.pending.extractLsb' 24 8 = 0 ∧
            (op = 0x2 ∨ s.pending.extractLsb' 8 16 = 0)) then 4
      else if op = 0x2 ∧ ¬ [s.pending.extractLsb' 8 4, s.pending.extractLsb' 12 4, s.pending.extractLsb' 16 4,
          s.pending.extractLsb' 20 4].Nodup then 5
      else if keyed ∧ s.keyLen ≠ 32 then 1
      else if keyed ∧ s.nonceLen ≠ 12 then 2
      else if op = 0x9 ∧ 4 * s.params.dbufWords < s.len.toNat then 3
      else 0

/-- What each command may write (R103 to R113, R423, R474): the frame of all ten. Every byte of DBUF outside XOR's
0 .. LEN-1 reads as before, and no command writes an operand or control register. -/
def Obligations.CommandsWriteOnlyTheirResultRegisters : Prop :=
  ∀ (i : Instr) (s t : State), exec i s = .next t →
    (t.keyBytes = s.keyBytes ∧ t.keyLen = s.keyLen ∧ t.nonceBytes = s.nonceBytes ∧ t.nonceLen = s.nonceLen ∧
      t.counter = s.counter ∧ t.len = s.len) ∧
    (t.cmd = s.cmd ∧ t.ovr = s.ovr ∧ t.doneIe = s.doneIe ∧ t.params = s.params) ∧
    (i ≠ .qr → t.qa = s.qa ∧ t.qb = s.qb ∧ t.qc = s.qc ∧ t.qd = s.qd) ∧
    (i ≠ .init → i ≠ .block → t.regS = s.regS) ∧
    ((∀ x y z w, i ≠ .qrw x y z w) → i ≠ .copy → i ≠ .dround → i ≠ .mix → i ≠ .block → t.regW = s.regW) ∧
    (i ≠ .addback → i ≠ .block → t.regOut = s.regOut) ∧
    (∀ a : Nat, i ≠ .xor ∨ s.len.toNat ≤ a → t.memRead a = s.memRead a) ∧
    (t.inputs = s.inputs ∧ t.responses = s.responses ∧ t.draws = s.draws ∧ t.dbufEpoch = s.dbufEpoch)

/-! ## The host's transactions -/

/-- R203: the map of the window. -/
def Obligations.RegisterMapOfTheWindow : Prop :=
  ∀ p : Params, p.wf = true →
    (regAt p 0x000 = .id ∧ regAt p 0x001 = .cmd ∧ regAt p 0x002 = .status ∧ regAt p 0x003 = .irqEn ∧
      regAt p 0x004 = .keyLen ∧ regAt p 0x005 = .nonceLen ∧ regAt p 0x006 = .counter ∧ regAt p 0x007 = .len ∧
      regAt p 0x014 = .qa ∧ regAt p 0x015 = .qb ∧ regAt p 0x016 = .qc ∧ regAt p 0x017 = .qd) ∧
    (∀ i : Fin 8, regAt p (BitVec.ofNat 11 (0x008 + i.val)) = .key i) ∧
    (∀ i : Fin 3, regAt p (BitVec.ofNat 11 (0x010 + i.val)) = .nonce i) ∧
    (∀ i : Fin 16, regAt p (BitVec.ofNat 11 (0x020 + i.val)) = .s i ∧ regAt p (BitVec.ofNat 11 (0x030 + i.val)) = .w i ∧
      regAt p (BitVec.ofNat 11 (0x040 + i.val)) = .out i) ∧
    (∀ i : Nat, i < p.dbufWords → regAt p (BitVec.ofNat 11 (0x400 + i)) = .dbuf i) ∧
    ∀ A : BitVec 11, regAt p A = .unmapped ↔
      A.toNat = 0x013 ∨ (0x018 ≤ A.toNat ∧ A.toNat ≤ 0x01F) ∨ (0x050 ≤ A.toNat ∧ A.toNat ≤ 0x3FF) ∨
        0x400 + p.dbufWords ≤ A.toNat

/-- R201, R202, as log 13 reads them (DEDUCED): word index A is at host byte address BASE + 4A, the two low address bits are
not carried, and nothing outside the window reaches it. For a BASE that is no multiple of 4, on which the spec is silent, the
two bits are those of the distance from BASE (log 13, DESIGN CHOICE). -/
def Obligations.WindowOfHostByteAddresses : Prop :=
  ∀ (p : Params) (a : Nat) (A : BitVec 11),
    windowIndex p a = some A ↔ ∃ k : Nat, k < 4 ∧ a = p.base + 4 * A.toNat + k

/-- R205: what a read returns, idle and busy, and that it changes nothing the core holds. The model's choices in it: the word
that a read of any other address, reserved indices included, returns while busy is the free value, whatever it is, and each
such read counts in `draws` (log 4, DEDUCED, its counter a DESIGN CHOICE); the word read is recorded in `responses` (log 7,
DESIGN CHOICE); a byte of DBUF never written reads as its free draw (log 3, DESIGN CHOICE). -/
def Obligations.ReadsReturnWhatTheRuleSays : Prop :=
  (∀ s : State,
    s.busRead 0x000 = 0x30324343 ∧ s.busRead 0x001 = s.cmd ∧
    s.busRead 0x002 = (BitVec.ofBool s.busy).setWidth 32 ||| (BitVec.ofBool s.done).setWidth 32 <<< 1 |||
      (errBits s.err).setWidth 32 <<< 4 ||| (BitVec.ofBool s.ovr).setWidth 32 <<< 8 ∧
    s.busRead 0x003 = (BitVec.ofBool s.doneIe).setWidth 32) ∧
  (∀ s : State, s.busy = false →
    s.busRead 0x004 = s.keyLen.setWidth 32 ∧ s.busRead 0x005 = s.nonceLen.setWidth 32 ∧
    s.busRead 0x006 = s.counter ∧ s.busRead 0x007 = s.len ∧
    s.busRead 0x014 = s.qa ∧ s.busRead 0x015 = s.qb ∧ s.busRead 0x016 = s.qc ∧ s.busRead 0x017 = s.qd ∧
    (∀ i : Fin 8, s.busRead (BitVec.ofNat 11 (0x008 + i.val)) =
      le32 s.keyBytes[4 * i.val] s.keyBytes[4 * i.val + 1] s.keyBytes[4 * i.val + 2] s.keyBytes[4 * i.val + 3]) ∧
    (∀ i : Fin 3, s.busRead (BitVec.ofNat 11 (0x010 + i.val)) =
      le32 s.nonceBytes[4 * i.val] s.nonceBytes[4 * i.val + 1] s.nonceBytes[4 * i.val + 2] s.nonceBytes[4 * i.val + 3]) ∧
    (∀ i : Fin 16, s.busRead (BitVec.ofNat 11 (0x020 + i.val)) = s.regS[i] ∧
      s.busRead (BitVec.ofNat 11 (0x030 + i.val)) = s.regW[i] ∧
      s.busRead (BitVec.ofNat 11 (0x040 + i.val)) = s.regOut[i]) ∧
    (s.params.wf = true → ∀ i : Nat, i < s.params.dbufWords → s.busRead (BitVec.ofNat 11 (0x400 + i)) =
      le32 (s.memRead (4 * i)) (s.memRead (4 * i + 1)) (s.memRead (4 * i + 2)) (s.memRead (4 * i + 3))) ∧
    (∀ A : BitVec 11, A.toNat = 0x013 ∨ (0x018 ≤ A.toNat ∧ A.toNat ≤ 0x01F) ∨ (0x050 ≤ A.toNat ∧ A.toNat ≤ 0x3FF) ∨
      0x400 + s.params.dbufWords ≤ A.toNat → s.busRead A = 0)) ∧
  (∀ (s : State) (A : BitVec 11), s.busy = true → 4 ≤ A.toNat → s.busRead A = Config.busyReadWord s.draws) ∧
  ∀ (s : State) (A : BitVec 11) (rest : List Event), s.inputs = .host (.read A) :: rest →
    step s = .next { s with
      inputs := rest
      responses := s.busRead A :: s.responses
      draws := if s.busy = true ∧ 4 ≤ A.toNat then s.draws + 1 else s.draws }

/-- R206: what a write does, idle and busy. -/
def Obligations.WritesActAsTheRuleSays : Prop :=
  (∀ (s : State) (data : Word) (be : BitVec 4),
    s.busWrite 0x002 data be =
      { s with done := s.done && !data.getLsbD 1, ovr := s.ovr && !data.getLsbD 8 } ∧
    s.busWrite 0x003 data be = { s with doneIe := data.getLsbD 0 }) ∧
  (∀ (s : State) (data : Word) (be : BitVec 4), s.busy = false →
    s.busWrite 0x000 data be = s ∧
    s.busWrite 0x001 data be = { s with pending := data, cmd := data, busy := true, done := false, err := .ok } ∧
    s.busWrite 0x004 data be = { s with keyLen := if be.getLsbD 0 then data.extractLsb' 0 8 else s.keyLen } ∧
    s.busWrite 0x005 data be = { s with nonceLen := if be.getLsbD 0 then data.extractLsb' 0 8 else s.nonceLen } ∧
    (∃ v, LanesMerged s.counter data be v ∧ s.busWrite 0x006 data be = { s with counter := v }) ∧
    (∃ v, LanesMerged s.len data be v ∧ s.busWrite 0x007 data be = { s with len := v }) ∧
    (∃ v, LanesMerged s.qa data be v ∧ s.busWrite 0x014 data be = { s with qa := v }) ∧
    (∃ v, LanesMerged s.qb data be v ∧ s.busWrite 0x015 data be = { s with qb := v }) ∧
    (∃ v, LanesMerged s.qc data be v ∧ s.busWrite 0x016 data be = { s with qc := v }) ∧
    (∃ v, LanesMerged s.qd data be v ∧ s.busWrite 0x017 data be = { s with qd := v }) ∧
    (∀ i : Fin 16,
      (∃ v, LanesMerged s.regS[i] data be v ∧
        s.busWrite (BitVec.ofNat 11 (0x020 + i.val)) data be = { s with regS := s.regS.set i.val v }) ∧
      (∃ v, LanesMerged s.regW[i] data be v ∧
        s.busWrite (BitVec.ofNat 11 (0x030 + i.val)) data be = { s with regW := s.regW.set i.val v }) ∧
      (∃ v, LanesMerged s.regOut[i] data be v ∧
        s.busWrite (BitVec.ofNat 11 (0x040 + i.val)) data be = { s with regOut := s.regOut.set i.val v })) ∧
    (∀ i : Fin 8, ∃ v, BytesMerged s.keyBytes i.val data be v ∧
      s.busWrite (BitVec.ofNat 11 (0x008 + i.val)) data be = { s with keyBytes := v }) ∧
    (∀ i : Fin 3, ∃ v, BytesMerged s.nonceBytes i.val data be v ∧
      s.busWrite (BitVec.ofNat 11 (0x010 + i.val)) data be = { s with nonceBytes := v }) ∧
    (s.params.wf = true → ∀ i : Nat, i < s.params.dbufWords → ∃ m : Memory,
      s.busWrite (BitVec.ofNat 11 (0x400 + i)) data be = { s with dbuf := m } ∧
      ∀ a : Nat, State.memRead { s with dbuf := m } a =
        if a / 4 = i ∧ be.getLsbD (a % 4) = true then data.extractLsb' (8 * (a % 4)) 8 else s.memRead a) ∧
    (∀ A : BitVec 11, A.toNat = 0x013 ∨ (0x018 ≤ A.toNat ∧ A.toNat ≤ 0x01F) ∨ (0x050 ≤ A.toNat ∧ A.toNat ≤ 0x3FF) ∨
      0x400 + s.params.dbufWords ≤ A.toNat → s.busWrite A data be = s)) ∧
  (∀ (s : State) (A : BitVec 11) (data : Word) (be : BitVec 4), s.busy = true → A ≠ 0x002 → A ≠ 0x003 →
    s.busWrite A data be = { s with ovr := true }) ∧
  ∀ (s : State) (A : BitVec 11) (data : Word) (be : BitVec 4) (rest : List Event),
    s.inputs = .host (.write A data be) :: rest → step s = .next (State.busWrite A data be { s with inputs := rest })

/-- R121, R206: no register of the window aliases another: an idle write to any address but CMD leaves the read of every
other address as it was. -/
def Obligations.NoRegisterAliasesAnother : Prop :=
  ∀ (s : State) (A B : BitVec 11) (data : Word) (be : BitVec 4), s.params.wf = true → s.busy = false → A ≠ 0x001 → A ≠ B →
    (s.busWrite A data be).busRead B = s.busRead B

/-- R308, and R207, which the spec marks as derived from R205 and R206: `ldkey` and `ldnonce` on an idle core store exactly the bytes, and the lengths. -/
def Obligations.LoadingKeyAndNonceStoresTheirBytes : Prop :=
  ∀ (s : State) (k : Vector Byte 32) (n : Vector Byte 12), s.busy = false →
    runEvents (Asm.ldkey k) s = .next { s with inputs := [], keyBytes := k, keyLen := 32 } ∧
    runEvents (Asm.ldnonce n) s = .next { s with inputs := [], nonceBytes := n, nonceLen := 12 }

/-- R308, R207 (derived, as above), with log 15's choice for the lanes past the end: `ldbuf` on an idle core stores exactly the bytes b0 .. b(L-1) at DBUF[0..L-1], leaves the rest of DBUF, and
sets LEN to L. -/
def Obligations.LoadingTheBufferStoresItsBytes : Prop :=
  ∀ (s : State) (bs : List Byte), s.params.wf = true → s.busy = false → bs.length ≤ 4 * s.params.dbufWords → ∃ m : Memory,
    runEvents (Asm.ldbuf bs) s =
      .next { s with inputs := [], dbuf := m, len := BitVec.ofNat 32 bs.length } ∧
    ∀ a : Nat, State.memRead { s with dbuf := m } a = bs.getD a (s.memRead a)

/-- R210: command acceptance, whatever the byte enables; OVR does not change; and between acceptance and completion no host
transaction changes a register the command reads or writes, nor the command itself. -/
def Obligations.WritingCmdWhileIdleAcceptsTheCommand : Prop :=
  (∀ (s : State) (c : Word) (be : BitVec 4) (rest : List Event), s.busy = false →
    s.inputs = .host (.write 0x001 c be) :: rest →
    ∃ t, step s = .next t ∧
      t = { s with inputs := rest, pending := c, cmd := c, busy := true, done := false, err := .ok } ∧
      t.statusWord.getLsbD 0 = true) ∧
  ∀ (s t : State) (tr : Transaction) (rest : List Event), s.busy = true → s.inputs = .host tr :: rest → step s = .next t →
    t = { s with inputs := rest, done := t.done, ovr := t.ovr, doneIe := t.doneIe, responses := t.responses, draws := t.draws }

/-- R117: what sets OVR and what clears it; the write that sets it is discarded; no command clears OVR or reads it. -/
def Obligations.OvrRecordsLostWritesUntilAcknowledged : Prop :=
  (∀ (s : State) (A : BitVec 11) (data : Word) (be : BitVec 4) (rest : List Event),
    s.inputs = .host (.write A data be) :: rest → s.busy = true → A ≠ 0x002 → A ≠ 0x003 →
    step s = .next { s with inputs := rest, ovr := true }) ∧
  (∀ s t : State, step s = .next t →
    (s.ovr = false → (t.ovr = true ↔
      ∃ A data be rest, s.inputs = .host (.write A data be) :: rest ∧ s.busy = true ∧ A ≠ 0x002 ∧ A ≠ 0x003)) ∧
    (s.ovr = true → (t.ovr = false ↔
      (∃ data be rest, s.inputs = .host (.write 0x002 data be) :: rest ∧ data.getLsbD 8 = true) ∨
      ∃ rest, s.inputs = .reset :: rest))) ∧
  ∀ (i : Instr) (s : State) (v : Bool), ∃ t,
    exec i s = .next t ∧ t.ovr = s.ovr ∧ exec i { s with ovr := v } = .next { t with ovr := v }

/-- R607: what sets DONE and what clears it, and that it is DONE_IE that enables it on `irq`. -/
def Obligations.DoneIsSetByCompletionsAndClearedByTheHost : Prop :=
  ∀ s t : State, step s = .next t →
    (s.done = false → (t.done = true ↔ s.busy = true ∧ s.sequencerNext = true)) ∧
    (s.done = true → (t.done = false ↔
      (∃ data be rest, s.inputs = .host (.write 0x002 data be) :: rest ∧ data.getLsbD 1 = true) ∨
      (∃ data be rest, s.inputs = .host (.write 0x001 data be) :: rest ∧ s.busy = false) ∨
      ∃ rest, s.inputs = .reset :: rest)) ∧
    t.irq = (t.done && t.doneIe)

/-- R608: `irq` is DONE and DONE_IE: a completion raises it exactly when enabled, acknowledging DONE drops it, and
DONE_IE = 0 masks it and leaves DONE pending. -/
def Obligations.InterruptLineFollowsDoneAndItsEnable : Prop :=
  (∀ s : State, s.irq = true ↔ s.done = true ∧ s.doneIe = true) ∧
  (∀ s t : State, s.busy = true → s.sequencerNext = true → step s = .next t → t.irq = s.doneIe) ∧
  (∀ (s t : State) (data : Word) (be : BitVec 4) (rest : List Event), s.inputs = .host (.write 0x002 data be) :: rest →
    data.getLsbD 1 = true → step s = .next t → t.irq = false) ∧
  ∀ (s t : State) (data : Word) (be : BitVec 4) (rest : List Event), s.inputs = .host (.write 0x003 data be) :: rest →
    data.getLsbD 0 = false → step s = .next t → t.irq = false ∧ t.done = s.done

/-! ## Reset, progress, and the machine as a whole -/

/-- R701: the reset state, register by register. That each byte of DBUF reads as the free draw of the present reset, whatever
it is, is the model's form of R702 (log 3, DESIGN CHOICE); `pending`'s value is the model's choice (log 5, DESIGN CHOICE) and
not stated. -/
def Obligations.ResetStateHoldsTheRuleValues : Prop :=
  (∀ i : Fin 32, State.reset.keyBytes[i] = 0) ∧ (∀ i : Fin 12, State.reset.nonceBytes[i] = 0) ∧
  State.reset.keyLen = 0 ∧ State.reset.nonceLen = 0 ∧ State.reset.counter = 0 ∧ State.reset.len = 0 ∧
  State.reset.qa = 0 ∧ State.reset.qb = 0 ∧ State.reset.qc = 0 ∧ State.reset.qd = 0 ∧
  (∀ i : Fin 16, State.reset.regS[i] = 0 ∧ State.reset.regW[i] = 0 ∧ State.reset.regOut[i] = 0) ∧
  State.reset.cmd = 0 ∧ State.reset.statusWord = 0 ∧ State.reset.doneIe = false ∧ State.reset.irq = false ∧
  State.reset.busy = false ∧ State.reset.busRead 0x000 = 0x30324343 ∧
  ∀ a : Nat, State.reset.memRead a = Config.dbufPowerOn State.reset.dbufEpoch a

/-- R703, R701: reset from any state, busy or idle, aborts the command without setting DONE and puts every register at its
reset value. The model's choices in it: DBUF's new unspecified content is the free draw of the next reset number (log 3,
DESIGN CHOICE), and the parameters and the rest of `inputs` are kept (log 12, DESIGN CHOICE). -/
def Obligations.ResetAbortsAndRestoresEveryRegister : Prop :=
  ∀ (s : State) (rest : List Event), s.inputs = .reset :: rest → ∃ t, step s = .next t ∧
    t.busy = false ∧ t.done = false ∧ t.err = .ok ∧ t.ovr = false ∧ t.doneIe = false ∧ t.cmd = 0 ∧
    t.keyLen = 0 ∧ t.nonceLen = 0 ∧ t.counter = 0 ∧ t.len = 0 ∧ t.qa = 0 ∧ t.qb = 0 ∧ t.qc = 0 ∧ t.qd = 0 ∧
    (∀ i : Fin 32, t.keyBytes[i] = 0) ∧ (∀ i : Fin 12, t.nonceBytes[i] = 0) ∧
    (∀ i : Fin 16, t.regS[i] = 0 ∧ t.regW[i] = 0 ∧ t.regOut[i] = 0) ∧
    (∀ a : Nat, t.memRead a = Config.dbufPowerOn (s.dbufEpoch + 1) a) ∧
    t.params = s.params ∧ t.inputs = rest

/-- R214, R216 (which the spec marks as derived from R214 and R215), R703: BUSY falls only in the running command's own completion step, or by reset. -/
def Obligations.BusyFallsOnlyByCompletionOrReset : Prop :=
  ∀ s t : State, step s = .next t → s.busy = true → t.busy = false →
    (s.sequencerNext = true ∧ sequencerStep { s with inputs := s.inputs.tail } = .next t) ∨
    ∃ rest, s.inputs = .reset :: rest

/-- R714, with the fairness of log 1 (DESIGN CHOICE): with no reset ahead, a running command completes, at the latest one step
after everything the outside does. -/
def Obligations.EveryAcceptedCommandCompletes : Prop :=
  ∀ s : State, s.busy = true → Event.reset ∉ s.inputs → ∃ (k : Nat) (t : State), k ≤ s.inputs.length + 1 ∧
    Host.Core.run Sys2Proof.core k s = .next t ∧ t.busy = false ∧ t.done = true ∧ t.cmd = s.cmd

/-- R308, R716, with log 15's schedule of the polls: `wait` ends for every latency, with exactly the reads the loop makes: BUSY = 1 in all but the last, BUSY = 0
in the last; and the state it ends in is the command's completion, whatever the latency. -/
def Obligations.WaitEndsWhenTheCommandCompletes : Prop :=
  ∀ (s : State) (polls : Nat), s.busy = true → ∃ (t u : State) (last : Word),
    sequencerStep { s with inputs := [] } = .next u ∧
    runEvents (Asm.wait polls) s = .next t ∧
    t = { u with responses := last :: (List.replicate polls s.statusWord ++ s.responses) } ∧
    last.getLsbD 0 = false ∧ s.statusWord.getLsbD 0 = true

/-- R119, U17: while the core is idle nothing depends on `pending`, so its value at reset (log 5) cannot matter. -/
def Obligations.PendingIsUnusedWhileIdle : Prop :=
  ∀ (s : State) (c : Word), s.busy = false → ∃ t t' : State,
    step s = .next t ∧ step { s with pending := c } = .next t' ∧
    { t' with pending := t.pending } = t ∧ (t.busy = true → t' = t)

/-- The invariant holds after reset (R701; with the parameters of log 6). -/
def Obligations.InvariantHoldsAfterReset : Prop :=
  State.reset.Inv

/-- Every step keeps the invariant: DBUF stays in canonical form and inside its bounds (R113); while busy, `pending` is what
CMD reads, DONE is 0 and ERR is 0 (R210); while idle, ERR is a code the last accepted word can end with (R602). -/
def Obligations.EveryStepKeepsTheInvariant : Prop :=
  ∀ s t : State, s.Inv → step s = .next t → t.Inv
end

