-- ==== Sys2Proof/Laws/Bits.lean ====
section
/-! SUPPORT. What the byte-order helpers of Machine/Bits.lean do, said lane by lane. -/

namespace Sys2Proof.Machine

/-- Bit i of a word made of four bytes is bit i mod 8 of byte i div 8. -/
theorem getLsbD_le32 (b0 b1 b2 b3 : Byte) (i : Nat) : (le32 b0 b1 b2 b3).getLsbD i =
    if i < 8 then b0.getLsbD i else if i < 16 then b1.getLsbD (i - 8)
    else if i < 24 then b2.getLsbD (i - 16) else b3.getLsbD (i - 24) := by
  simp only [le32, BitVec.getLsbD_or, BitVec.getLsbD_shiftLeft, BitVec.getLsbD_setWidth]
  have beyond (b : Byte) (j : Nat) (h : 8 ≤ j) : b.getLsbD j = false := BitVec.getLsbD_of_ge b j h
  split_ifs with h1 h2 h3
  · simp [show i < 16 by omega, show i < 24 by omega, show i < 32 by omega, h1]
  · simp [h1, h2, beyond b0 i (by omega), show i < 24 by omega, show i < 32 by omega, show i - 8 < 32 by omega]
  · simp [h1, h2, h3, beyond b0 i (by omega), beyond b1 (i - 8) (by omega), show i < 32 by omega,
      show i - 16 < 32 by omega]
  · rw [beyond b0 i (by omega), beyond b1 (i - 8) (by omega), beyond b2 (i - 16) (by omega)]
    by_cases h : i < 32
    · simp [h, h1, h2, h3, show i - 24 < 32 by omega]
    · simp [h, beyond b3 (i - 24) (by omega)]

/-- Bit i of byte lane j. -/
theorem getLsbD_byteLane (v : Word) (j i : Nat) : (byteLane v j).getLsbD i = (decide (i < 8) && v.getLsbD (8 * j + i)) := by
  simp [byteLane]

theorem byteLane_le32_zero (b0 b1 b2 b3 : Byte) : byteLane (le32 b0 b1 b2 b3) 0 = b0 := by
  apply BitVec.eq_of_getLsbD_eq
  intro i hi
  rw [getLsbD_byteLane, getLsbD_le32]
  simp [hi]

theorem byteLane_le32_one (b0 b1 b2 b3 : Byte) : byteLane (le32 b0 b1 b2 b3) 1 = b1 := by
  apply BitVec.eq_of_getLsbD_eq
  intro i hi
  rw [getLsbD_byteLane, getLsbD_le32]
  simp [hi, show 8 + i < 16 by omega]

theorem byteLane_le32_two (b0 b1 b2 b3 : Byte) : byteLane (le32 b0 b1 b2 b3) 2 = b2 := by
  apply BitVec.eq_of_getLsbD_eq
  intro i hi
  rw [getLsbD_byteLane, getLsbD_le32]
  simp [hi, show ¬ 16 + i < 8 by omega, show 16 + i < 24 by omega]

theorem byteLane_le32_three (b0 b1 b2 b3 : Byte) : byteLane (le32 b0 b1 b2 b3) 3 = b3 := by
  apply BitVec.eq_of_getLsbD_eq
  intro i hi
  rw [getLsbD_byteLane, getLsbD_le32]
  simp [hi, show ¬ 24 + i < 8 by omega, show ¬ 24 + i < 16 by omega]

/-- Lane j of a word register after a write with byte enables. -/
theorem byteLane_mergeLanes (old new : Word) (be : BitVec 4) (j : Fin 4) :
    byteLane (mergeLanes old new be) j.val = mergedLane old new be j.val := by
  match j with
  | 0 => exact byteLane_le32_zero ..
  | 1 => exact byteLane_le32_one ..
  | 2 => exact byteLane_le32_two ..
  | 3 => exact byteLane_le32_three ..

/-- Byte p of a byte array after a write of its word i. -/
theorem getElem_mergeBytes {n : Nat} (old : Vector Byte n) (i : Nat) (new : Word) (be : BitVec 4) (p : Fin n) :
    (mergeBytes old i new be)[p] =
      if p.val / 4 = i ∧ be.getLsbD (p.val % 4) = true then byteLane new (p.val % 4) else old[p] := by
  simp [mergeBytes]

/-- Bit i of a rotated word. -/
theorem getLsbD_rotl32 (v : Word) (n i : Nat) (hn : n < 32) (hi : i < 32) :
    (rotl32 v n).getLsbD i = if i < n then v.getLsbD (32 - n + i) else v.getLsbD (i - n) := by
  simp only [rotl32, BitVec.getLsbD_or, BitVec.getLsbD_shiftLeft, BitVec.getLsbD_ushiftRight]
  split_ifs with h
  · simp [h]
  · simp [h, hi, BitVec.getLsbD_of_ge v (32 - n + i) (by omega)]

end Sys2Proof.Machine
end

