-- ==== Sys2Proof/Laws/Block.lean ====
section
/-! SUPPORT. The serialised block and the chunks of the cipher: how long they are. -/

namespace Sys2Proof.Machine

@[simp] theorem bytesLe_length (w : Word) : (bytesLe w).length = 4 := rfl

/-- The serialisation of a list of words has four bytes a word. -/
theorem flatMap_bytesLe_length (l : List Word) : (l.flatMap bytesLe).length = 4 * l.length := by
  induction l with
  | nil => rfl
  | cons w l ih => simp [ih]; omega

theorem ser_length (o : Words16) : (ser o).length = 64 := by
  rw [ser, flatMap_bytesLe_length, Vector.length_toList]

theorem keystream_length (k : Vector Byte 32) (c0 : Word) (n : Vector Byte 12) (j : Nat) :
    (keystream k c0 n j).length = 64 := ser_length _

/-- A chunk's result is as long as the chunk. -/
theorem chunkOut_length (k : Vector Byte 32) (c0 : Word) (n : Vector Byte 12) (d : List Byte) (j : Nat) :
    (chunkOut k c0 n d j).length = min 64 (d.length - 64 * j) := by
  simp [chunkOut, xorBytes, keystream_length]

@[simp] theorem State.dataBytes_length (s : State) : s.dataBytes.length = s.len.toNat := by
  simp [State.dataBytes]

/-- The double rounds of R442 as an iterate. -/
theorem drfTimes_eq_iterate (n : Nat) (v : Words16) : drfTimes n v = drf^[n] v := by
  induction n generalizing v with
  | zero => rfl
  | succ n ih => rw [drfTimes, ih, Function.iterate_succ_apply]

end Sys2Proof.Machine
end

