-- ==== Sys2Proof/Laws/State.lean ====
section
/-! SUPPORT. One lemma per field per update of the state, true by rfl: a later proof rewrites with these and never unfolds a
record update. Each block says, field by field, what one named update of Machine/Ops.lean or Machine/Flags.lean leaves in
the state. -/

namespace Sys2Proof.Machine

variable (s : State)

section finish
variable (e : ErrCode)
@[simp] theorem State.finish_params : (State.finish e s).params = s.params := rfl
@[simp] theorem State.finish_keyBytes : (State.finish e s).keyBytes = s.keyBytes := rfl
@[simp] theorem State.finish_keyLen : (State.finish e s).keyLen = s.keyLen := rfl
@[simp] theorem State.finish_nonceBytes : (State.finish e s).nonceBytes = s.nonceBytes := rfl
@[simp] theorem State.finish_nonceLen : (State.finish e s).nonceLen = s.nonceLen := rfl
@[simp] theorem State.finish_counter : (State.finish e s).counter = s.counter := rfl
@[simp] theorem State.finish_len : (State.finish e s).len = s.len := rfl
@[simp] theorem State.finish_qa : (State.finish e s).qa = s.qa := rfl
@[simp] theorem State.finish_qb : (State.finish e s).qb = s.qb := rfl
@[simp] theorem State.finish_qc : (State.finish e s).qc = s.qc := rfl
@[simp] theorem State.finish_qd : (State.finish e s).qd = s.qd := rfl
@[simp] theorem State.finish_regS : (State.finish e s).regS = s.regS := rfl
@[simp] theorem State.finish_regW : (State.finish e s).regW = s.regW := rfl
@[simp] theorem State.finish_regOut : (State.finish e s).regOut = s.regOut := rfl
@[simp] theorem State.finish_dbuf : (State.finish e s).dbuf = s.dbuf := rfl
@[simp] theorem State.finish_cmd : (State.finish e s).cmd = s.cmd := rfl
@[simp] theorem State.finish_busy : (State.finish e s).busy = false := rfl
@[simp] theorem State.finish_done : (State.finish e s).done = true := rfl
@[simp] theorem State.finish_err : (State.finish e s).err = e := rfl
@[simp] theorem State.finish_ovr : (State.finish e s).ovr = s.ovr := rfl
@[simp] theorem State.finish_doneIe : (State.finish e s).doneIe = s.doneIe := rfl
@[simp] theorem State.finish_pending : (State.finish e s).pending = s.pending := rfl
@[simp] theorem State.finish_inputs : (State.finish e s).inputs = s.inputs := rfl
@[simp] theorem State.finish_responses : (State.finish e s).responses = s.responses := rfl
@[simp] theorem State.finish_draws : (State.finish e s).draws = s.draws := rfl
@[simp] theorem State.finish_dbufEpoch : (State.finish e s).dbufEpoch = s.dbufEpoch := rfl
end finish

section ackStatus
variable (d : Word)
@[simp] theorem State.ackStatus_params : (State.ackStatus d s).params = s.params := rfl
@[simp] theorem State.ackStatus_keyBytes : (State.ackStatus d s).keyBytes = s.keyBytes := rfl
@[simp] theorem State.ackStatus_keyLen : (State.ackStatus d s).keyLen = s.keyLen := rfl
@[simp] theorem State.ackStatus_nonceBytes : (State.ackStatus d s).nonceBytes = s.nonceBytes := rfl
@[simp] theorem State.ackStatus_nonceLen : (State.ackStatus d s).nonceLen = s.nonceLen := rfl
@[simp] theorem State.ackStatus_counter : (State.ackStatus d s).counter = s.counter := rfl
@[simp] theorem State.ackStatus_len : (State.ackStatus d s).len = s.len := rfl
@[simp] theorem State.ackStatus_qa : (State.ackStatus d s).qa = s.qa := rfl
@[simp] theorem State.ackStatus_qb : (State.ackStatus d s).qb = s.qb := rfl
@[simp] theorem State.ackStatus_qc : (State.ackStatus d s).qc = s.qc := rfl
@[simp] theorem State.ackStatus_qd : (State.ackStatus d s).qd = s.qd := rfl
@[simp] theorem State.ackStatus_regS : (State.ackStatus d s).regS = s.regS := rfl
@[simp] theorem State.ackStatus_regW : (State.ackStatus d s).regW = s.regW := rfl
@[simp] theorem State.ackStatus_regOut : (State.ackStatus d s).regOut = s.regOut := rfl
@[simp] theorem State.ackStatus_dbuf : (State.ackStatus d s).dbuf = s.dbuf := rfl
@[simp] theorem State.ackStatus_cmd : (State.ackStatus d s).cmd = s.cmd := rfl
@[simp] theorem State.ackStatus_busy : (State.ackStatus d s).busy = s.busy := rfl
@[simp] theorem State.ackStatus_done : (State.ackStatus d s).done = (s.done && !d.getLsbD 1) := rfl
@[simp] theorem State.ackStatus_err : (State.ackStatus d s).err = s.err := rfl
@[simp] theorem State.ackStatus_ovr : (State.ackStatus d s).ovr = (s.ovr && !d.getLsbD 8) := rfl
@[simp] theorem State.ackStatus_doneIe : (State.ackStatus d s).doneIe = s.doneIe := rfl
@[simp] theorem State.ackStatus_pending : (State.ackStatus d s).pending = s.pending := rfl
@[simp] theorem State.ackStatus_inputs : (State.ackStatus d s).inputs = s.inputs := rfl
@[simp] theorem State.ackStatus_responses : (State.ackStatus d s).responses = s.responses := rfl
@[simp] theorem State.ackStatus_draws : (State.ackStatus d s).draws = s.draws := rfl
@[simp] theorem State.ackStatus_dbufEpoch : (State.ackStatus d s).dbufEpoch = s.dbufEpoch := rfl
end ackStatus

section flagOvr
@[simp] theorem State.flagOvr_params : (State.flagOvr s).params = s.params := rfl
@[simp] theorem State.flagOvr_keyBytes : (State.flagOvr s).keyBytes = s.keyBytes := rfl
@[simp] theorem State.flagOvr_keyLen : (State.flagOvr s).keyLen = s.keyLen := rfl
@[simp] theorem State.flagOvr_nonceBytes : (State.flagOvr s).nonceBytes = s.nonceBytes := rfl
@[simp] theorem State.flagOvr_nonceLen : (State.flagOvr s).nonceLen = s.nonceLen := rfl
@[simp] theorem State.flagOvr_counter : (State.flagOvr s).counter = s.counter := rfl
@[simp] theorem State.flagOvr_len : (State.flagOvr s).len = s.len := rfl
@[simp] theorem State.flagOvr_qa : (State.flagOvr s).qa = s.qa := rfl
@[simp] theorem State.flagOvr_qb : (State.flagOvr s).qb = s.qb := rfl
@[simp] theorem State.flagOvr_qc : (State.flagOvr s).qc = s.qc := rfl
@[simp] theorem State.flagOvr_qd : (State.flagOvr s).qd = s.qd := rfl
@[simp] theorem State.flagOvr_regS : (State.flagOvr s).regS = s.regS := rfl
@[simp] theorem State.flagOvr_regW : (State.flagOvr s).regW = s.regW := rfl
@[simp] theorem State.flagOvr_regOut : (State.flagOvr s).regOut = s.regOut := rfl
@[simp] theorem State.flagOvr_dbuf : (State.flagOvr s).dbuf = s.dbuf := rfl
@[simp] theorem State.flagOvr_cmd : (State.flagOvr s).cmd = s.cmd := rfl
@[simp] theorem State.flagOvr_busy : (State.flagOvr s).busy = s.busy := rfl
@[simp] theorem State.flagOvr_done : (State.flagOvr s).done = s.done := rfl
@[simp] theorem State.flagOvr_err : (State.flagOvr s).err = s.err := rfl
@[simp] theorem State.flagOvr_ovr : (State.flagOvr s).ovr = true := rfl
@[simp] theorem State.flagOvr_doneIe : (State.flagOvr s).doneIe = s.doneIe := rfl
@[simp] theorem State.flagOvr_pending : (State.flagOvr s).pending = s.pending := rfl
@[simp] theorem State.flagOvr_inputs : (State.flagOvr s).inputs = s.inputs := rfl
@[simp] theorem State.flagOvr_responses : (State.flagOvr s).responses = s.responses := rfl
@[simp] theorem State.flagOvr_draws : (State.flagOvr s).draws = s.draws := rfl
@[simp] theorem State.flagOvr_dbufEpoch : (State.flagOvr s).dbufEpoch = s.dbufEpoch := rfl
end flagOvr

section setDoneIe
variable (d : Word)
@[simp] theorem State.setDoneIe_params : (State.setDoneIe d s).params = s.params := rfl
@[simp] theorem State.setDoneIe_keyBytes : (State.setDoneIe d s).keyBytes = s.keyBytes := rfl
@[simp] theorem State.setDoneIe_keyLen : (State.setDoneIe d s).keyLen = s.keyLen := rfl
@[simp] theorem State.setDoneIe_nonceBytes : (State.setDoneIe d s).nonceBytes = s.nonceBytes := rfl
@[simp] theorem State.setDoneIe_nonceLen : (State.setDoneIe d s).nonceLen = s.nonceLen := rfl
@[simp] theorem State.setDoneIe_counter : (State.setDoneIe d s).counter = s.counter := rfl
@[simp] theorem State.setDoneIe_len : (State.setDoneIe d s).len = s.len := rfl
@[simp] theorem State.setDoneIe_qa : (State.setDoneIe d s).qa = s.qa := rfl
@[simp] theorem State.setDoneIe_qb : (State.setDoneIe d s).qb = s.qb := rfl
@[simp] theorem State.setDoneIe_qc : (State.setDoneIe d s).qc = s.qc := rfl
@[simp] theorem State.setDoneIe_qd : (State.setDoneIe d s).qd = s.qd := rfl
@[simp] theorem State.setDoneIe_regS : (State.setDoneIe d s).regS = s.regS := rfl
@[simp] theorem State.setDoneIe_regW : (State.setDoneIe d s).regW = s.regW := rfl
@[simp] theorem State.setDoneIe_regOut : (State.setDoneIe d s).regOut = s.regOut := rfl
@[simp] theorem State.setDoneIe_dbuf : (State.setDoneIe d s).dbuf = s.dbuf := rfl
@[simp] theorem State.setDoneIe_cmd : (State.setDoneIe d s).cmd = s.cmd := rfl
@[simp] theorem State.setDoneIe_busy : (State.setDoneIe d s).busy = s.busy := rfl
@[simp] theorem State.setDoneIe_done : (State.setDoneIe d s).done = s.done := rfl
@[simp] theorem State.setDoneIe_err : (State.setDoneIe d s).err = s.err := rfl
@[simp] theorem State.setDoneIe_ovr : (State.setDoneIe d s).ovr = s.ovr := rfl
@[simp] theorem State.setDoneIe_doneIe : (State.setDoneIe d s).doneIe = d.getLsbD 0 := rfl
@[simp] theorem State.setDoneIe_pending : (State.setDoneIe d s).pending = s.pending := rfl
@[simp] theorem State.setDoneIe_inputs : (State.setDoneIe d s).inputs = s.inputs := rfl
@[simp] theorem State.setDoneIe_responses : (State.setDoneIe d s).responses = s.responses := rfl
@[simp] theorem State.setDoneIe_draws : (State.setDoneIe d s).draws = s.draws := rfl
@[simp] theorem State.setDoneIe_dbufEpoch : (State.setDoneIe d s).dbufEpoch = s.dbufEpoch := rfl
end setDoneIe

section memWriteFrom
variable (a : Nat) (bs : List Byte)
@[simp] theorem State.memWriteFrom_params : (State.memWriteFrom a bs s).params = s.params := rfl
@[simp] theorem State.memWriteFrom_keyBytes : (State.memWriteFrom a bs s).keyBytes = s.keyBytes := rfl
@[simp] theorem State.memWriteFrom_keyLen : (State.memWriteFrom a bs s).keyLen = s.keyLen := rfl
@[simp] theorem State.memWriteFrom_nonceBytes : (State.memWriteFrom a bs s).nonceBytes = s.nonceBytes := rfl
@[simp] theorem State.memWriteFrom_nonceLen : (State.memWriteFrom a bs s).nonceLen = s.nonceLen := rfl
@[simp] theorem State.memWriteFrom_counter : (State.memWriteFrom a bs s).counter = s.counter := rfl
@[simp] theorem State.memWriteFrom_len : (State.memWriteFrom a bs s).len = s.len := rfl
@[simp] theorem State.memWriteFrom_qa : (State.memWriteFrom a bs s).qa = s.qa := rfl
@[simp] theorem State.memWriteFrom_qb : (State.memWriteFrom a bs s).qb = s.qb := rfl
@[simp] theorem State.memWriteFrom_qc : (State.memWriteFrom a bs s).qc = s.qc := rfl
@[simp] theorem State.memWriteFrom_qd : (State.memWriteFrom a bs s).qd = s.qd := rfl
@[simp] theorem State.memWriteFrom_regS : (State.memWriteFrom a bs s).regS = s.regS := rfl
@[simp] theorem State.memWriteFrom_regW : (State.memWriteFrom a bs s).regW = s.regW := rfl
@[simp] theorem State.memWriteFrom_regOut : (State.memWriteFrom a bs s).regOut = s.regOut := rfl
@[simp] theorem State.memWriteFrom_dbuf : (State.memWriteFrom a bs s).dbuf = Memory.writeFrom a bs s.dbuf := rfl
@[simp] theorem State.memWriteFrom_cmd : (State.memWriteFrom a bs s).cmd = s.cmd := rfl
@[simp] theorem State.memWriteFrom_busy : (State.memWriteFrom a bs s).busy = s.busy := rfl
@[simp] theorem State.memWriteFrom_done : (State.memWriteFrom a bs s).done = s.done := rfl
@[simp] theorem State.memWriteFrom_err : (State.memWriteFrom a bs s).err = s.err := rfl
@[simp] theorem State.memWriteFrom_ovr : (State.memWriteFrom a bs s).ovr = s.ovr := rfl
@[simp] theorem State.memWriteFrom_doneIe : (State.memWriteFrom a bs s).doneIe = s.doneIe := rfl
@[simp] theorem State.memWriteFrom_pending : (State.memWriteFrom a bs s).pending = s.pending := rfl
@[simp] theorem State.memWriteFrom_inputs : (State.memWriteFrom a bs s).inputs = s.inputs := rfl
@[simp] theorem State.memWriteFrom_responses : (State.memWriteFrom a bs s).responses = s.responses := rfl
@[simp] theorem State.memWriteFrom_draws : (State.memWriteFrom a bs s).draws = s.draws := rfl
@[simp] theorem State.memWriteFrom_dbufEpoch : (State.memWriteFrom a bs s).dbufEpoch = s.dbufEpoch := rfl
end memWriteFrom

section writeDbufWord
variable (i : Nat) (d : Word) (be : BitVec 4)
@[simp] theorem State.writeDbufWord_params : (State.writeDbufWord i d be s).params = s.params := rfl
@[simp] theorem State.writeDbufWord_keyBytes : (State.writeDbufWord i d be s).keyBytes = s.keyBytes := rfl
@[simp] theorem State.writeDbufWord_keyLen : (State.writeDbufWord i d be s).keyLen = s.keyLen := rfl
@[simp] theorem State.writeDbufWord_nonceBytes : (State.writeDbufWord i d be s).nonceBytes = s.nonceBytes := rfl
@[simp] theorem State.writeDbufWord_nonceLen : (State.writeDbufWord i d be s).nonceLen = s.nonceLen := rfl
@[simp] theorem State.writeDbufWord_counter : (State.writeDbufWord i d be s).counter = s.counter := rfl
@[simp] theorem State.writeDbufWord_len : (State.writeDbufWord i d be s).len = s.len := rfl
@[simp] theorem State.writeDbufWord_qa : (State.writeDbufWord i d be s).qa = s.qa := rfl
@[simp] theorem State.writeDbufWord_qb : (State.writeDbufWord i d be s).qb = s.qb := rfl
@[simp] theorem State.writeDbufWord_qc : (State.writeDbufWord i d be s).qc = s.qc := rfl
@[simp] theorem State.writeDbufWord_qd : (State.writeDbufWord i d be s).qd = s.qd := rfl
@[simp] theorem State.writeDbufWord_regS : (State.writeDbufWord i d be s).regS = s.regS := rfl
@[simp] theorem State.writeDbufWord_regW : (State.writeDbufWord i d be s).regW = s.regW := rfl
@[simp] theorem State.writeDbufWord_regOut : (State.writeDbufWord i d be s).regOut = s.regOut := rfl
@[simp] theorem State.writeDbufWord_dbuf : (State.writeDbufWord i d be s).dbuf = [0, 1, 2, 3].foldl (Memory.writeLane i d be) s.dbuf := rfl
@[simp] theorem State.writeDbufWord_cmd : (State.writeDbufWord i d be s).cmd = s.cmd := rfl
@[simp] theorem State.writeDbufWord_busy : (State.writeDbufWord i d be s).busy = s.busy := rfl
@[simp] theorem State.writeDbufWord_done : (State.writeDbufWord i d be s).done = s.done := rfl
@[simp] theorem State.writeDbufWord_err : (State.writeDbufWord i d be s).err = s.err := rfl
@[simp] theorem State.writeDbufWord_ovr : (State.writeDbufWord i d be s).ovr = s.ovr := rfl
@[simp] theorem State.writeDbufWord_doneIe : (State.writeDbufWord i d be s).doneIe = s.doneIe := rfl
@[simp] theorem State.writeDbufWord_pending : (State.writeDbufWord i d be s).pending = s.pending := rfl
@[simp] theorem State.writeDbufWord_inputs : (State.writeDbufWord i d be s).inputs = s.inputs := rfl
@[simp] theorem State.writeDbufWord_responses : (State.writeDbufWord i d be s).responses = s.responses := rfl
@[simp] theorem State.writeDbufWord_draws : (State.writeDbufWord i d be s).draws = s.draws := rfl
@[simp] theorem State.writeDbufWord_dbufEpoch : (State.writeDbufWord i d be s).dbufEpoch = s.dbufEpoch := rfl
end writeDbufWord

section setQ
variable (q : Word × Word × Word × Word)
@[simp] theorem State.setQ_params : (State.setQ q s).params = s.params := rfl
@[simp] theorem State.setQ_keyBytes : (State.setQ q s).keyBytes = s.keyBytes := rfl
@[simp] theorem State.setQ_keyLen : (State.setQ q s).keyLen = s.keyLen := rfl
@[simp] theorem State.setQ_nonceBytes : (State.setQ q s).nonceBytes = s.nonceBytes := rfl
@[simp] theorem State.setQ_nonceLen : (State.setQ q s).nonceLen = s.nonceLen := rfl
@[simp] theorem State.setQ_counter : (State.setQ q s).counter = s.counter := rfl
@[simp] theorem State.setQ_len : (State.setQ q s).len = s.len := rfl
@[simp] theorem State.setQ_qa : (State.setQ q s).qa = q.1 := rfl
@[simp] theorem State.setQ_qb : (State.setQ q s).qb = q.2.1 := rfl
@[simp] theorem State.setQ_qc : (State.setQ q s).qc = q.2.2.1 := rfl
@[simp] theorem State.setQ_qd : (State.setQ q s).qd = q.2.2.2 := rfl
@[simp] theorem State.setQ_regS : (State.setQ q s).regS = s.regS := rfl
@[simp] theorem State.setQ_regW : (State.setQ q s).regW = s.regW := rfl
@[simp] theorem State.setQ_regOut : (State.setQ q s).regOut = s.regOut := rfl
@[simp] theorem State.setQ_dbuf : (State.setQ q s).dbuf = s.dbuf := rfl
@[simp] theorem State.setQ_cmd : (State.setQ q s).cmd = s.cmd := rfl
@[simp] theorem State.setQ_busy : (State.setQ q s).busy = s.busy := rfl
@[simp] theorem State.setQ_done : (State.setQ q s).done = s.done := rfl
@[simp] theorem State.setQ_err : (State.setQ q s).err = s.err := rfl
@[simp] theorem State.setQ_ovr : (State.setQ q s).ovr = s.ovr := rfl
@[simp] theorem State.setQ_doneIe : (State.setQ q s).doneIe = s.doneIe := rfl
@[simp] theorem State.setQ_pending : (State.setQ q s).pending = s.pending := rfl
@[simp] theorem State.setQ_inputs : (State.setQ q s).inputs = s.inputs := rfl
@[simp] theorem State.setQ_responses : (State.setQ q s).responses = s.responses := rfl
@[simp] theorem State.setQ_draws : (State.setQ q s).draws = s.draws := rfl
@[simp] theorem State.setQ_dbufEpoch : (State.setQ q s).dbufEpoch = s.dbufEpoch := rfl
end setQ

section setS
variable (v : Words16)
@[simp] theorem State.setS_params : (State.setS v s).params = s.params := rfl
@[simp] theorem State.setS_keyBytes : (State.setS v s).keyBytes = s.keyBytes := rfl
@[simp] theorem State.setS_keyLen : (State.setS v s).keyLen = s.keyLen := rfl
@[simp] theorem State.setS_nonceBytes : (State.setS v s).nonceBytes = s.nonceBytes := rfl
@[simp] theorem State.setS_nonceLen : (State.setS v s).nonceLen = s.nonceLen := rfl
@[simp] theorem State.setS_counter : (State.setS v s).counter = s.counter := rfl
@[simp] theorem State.setS_len : (State.setS v s).len = s.len := rfl
@[simp] theorem State.setS_qa : (State.setS v s).qa = s.qa := rfl
@[simp] theorem State.setS_qb : (State.setS v s).qb = s.qb := rfl
@[simp] theorem State.setS_qc : (State.setS v s).qc = s.qc := rfl
@[simp] theorem State.setS_qd : (State.setS v s).qd = s.qd := rfl
@[simp] theorem State.setS_regS : (State.setS v s).regS = v := rfl
@[simp] theorem State.setS_regW : (State.setS v s).regW = s.regW := rfl
@[simp] theorem State.setS_regOut : (State.setS v s).regOut = s.regOut := rfl
@[simp] theorem State.setS_dbuf : (State.setS v s).dbuf = s.dbuf := rfl
@[simp] theorem State.setS_cmd : (State.setS v s).cmd = s.cmd := rfl
@[simp] theorem State.setS_busy : (State.setS v s).busy = s.busy := rfl
@[simp] theorem State.setS_done : (State.setS v s).done = s.done := rfl
@[simp] theorem State.setS_err : (State.setS v s).err = s.err := rfl
@[simp] theorem State.setS_ovr : (State.setS v s).ovr = s.ovr := rfl
@[simp] theorem State.setS_doneIe : (State.setS v s).doneIe = s.doneIe := rfl
@[simp] theorem State.setS_pending : (State.setS v s).pending = s.pending := rfl
@[simp] theorem State.setS_inputs : (State.setS v s).inputs = s.inputs := rfl
@[simp] theorem State.setS_responses : (State.setS v s).responses = s.responses := rfl
@[simp] theorem State.setS_draws : (State.setS v s).draws = s.draws := rfl
@[simp] theorem State.setS_dbufEpoch : (State.setS v s).dbufEpoch = s.dbufEpoch := rfl
end setS

section setW
variable (v : Words16)
@[simp] theorem State.setW_params : (State.setW v s).params = s.params := rfl
@[simp] theorem State.setW_keyBytes : (State.setW v s).keyBytes = s.keyBytes := rfl
@[simp] theorem State.setW_keyLen : (State.setW v s).keyLen = s.keyLen := rfl
@[simp] theorem State.setW_nonceBytes : (State.setW v s).nonceBytes = s.nonceBytes := rfl
@[simp] theorem State.setW_nonceLen : (State.setW v s).nonceLen = s.nonceLen := rfl
@[simp] theorem State.setW_counter : (State.setW v s).counter = s.counter := rfl
@[simp] theorem State.setW_len : (State.setW v s).len = s.len := rfl
@[simp] theorem State.setW_qa : (State.setW v s).qa = s.qa := rfl
@[simp] theorem State.setW_qb : (State.setW v s).qb = s.qb := rfl
@[simp] theorem State.setW_qc : (State.setW v s).qc = s.qc := rfl
@[simp] theorem State.setW_qd : (State.setW v s).qd = s.qd := rfl
@[simp] theorem State.setW_regS : (State.setW v s).regS = s.regS := rfl
@[simp] theorem State.setW_regW : (State.setW v s).regW = v := rfl
@[simp] theorem State.setW_regOut : (State.setW v s).regOut = s.regOut := rfl
@[simp] theorem State.setW_dbuf : (State.setW v s).dbuf = s.dbuf := rfl
@[simp] theorem State.setW_cmd : (State.setW v s).cmd = s.cmd := rfl
@[simp] theorem State.setW_busy : (State.setW v s).busy = s.busy := rfl
@[simp] theorem State.setW_done : (State.setW v s).done = s.done := rfl
@[simp] theorem State.setW_err : (State.setW v s).err = s.err := rfl
@[simp] theorem State.setW_ovr : (State.setW v s).ovr = s.ovr := rfl
@[simp] theorem State.setW_doneIe : (State.setW v s).doneIe = s.doneIe := rfl
@[simp] theorem State.setW_pending : (State.setW v s).pending = s.pending := rfl
@[simp] theorem State.setW_inputs : (State.setW v s).inputs = s.inputs := rfl
@[simp] theorem State.setW_responses : (State.setW v s).responses = s.responses := rfl
@[simp] theorem State.setW_draws : (State.setW v s).draws = s.draws := rfl
@[simp] theorem State.setW_dbufEpoch : (State.setW v s).dbufEpoch = s.dbufEpoch := rfl
end setW

section setOut
variable (v : Words16)
@[simp] theorem State.setOut_params : (State.setOut v s).params = s.params := rfl
@[simp] theorem State.setOut_keyBytes : (State.setOut v s).keyBytes = s.keyBytes := rfl
@[simp] theorem State.setOut_keyLen : (State.setOut v s).keyLen = s.keyLen := rfl
@[simp] theorem State.setOut_nonceBytes : (State.setOut v s).nonceBytes = s.nonceBytes := rfl
@[simp] theorem State.setOut_nonceLen : (State.setOut v s).nonceLen = s.nonceLen := rfl
@[simp] theorem State.setOut_counter : (State.setOut v s).counter = s.counter := rfl
@[simp] theorem State.setOut_len : (State.setOut v s).len = s.len := rfl
@[simp] theorem State.setOut_qa : (State.setOut v s).qa = s.qa := rfl
@[simp] theorem State.setOut_qb : (State.setOut v s).qb = s.qb := rfl
@[simp] theorem State.setOut_qc : (State.setOut v s).qc = s.qc := rfl
@[simp] theorem State.setOut_qd : (State.setOut v s).qd = s.qd := rfl
@[simp] theorem State.setOut_regS : (State.setOut v s).regS = s.regS := rfl
@[simp] theorem State.setOut_regW : (State.setOut v s).regW = s.regW := rfl
@[simp] theorem State.setOut_regOut : (State.setOut v s).regOut = v := rfl
@[simp] theorem State.setOut_dbuf : (State.setOut v s).dbuf = s.dbuf := rfl
@[simp] theorem State.setOut_cmd : (State.setOut v s).cmd = s.cmd := rfl
@[simp] theorem State.setOut_busy : (State.setOut v s).busy = s.busy := rfl
@[simp] theorem State.setOut_done : (State.setOut v s).done = s.done := rfl
@[simp] theorem State.setOut_err : (State.setOut v s).err = s.err := rfl
@[simp] theorem State.setOut_ovr : (State.setOut v s).ovr = s.ovr := rfl
@[simp] theorem State.setOut_doneIe : (State.setOut v s).doneIe = s.doneIe := rfl
@[simp] theorem State.setOut_pending : (State.setOut v s).pending = s.pending := rfl
@[simp] theorem State.setOut_inputs : (State.setOut v s).inputs = s.inputs := rfl
@[simp] theorem State.setOut_responses : (State.setOut v s).responses = s.responses := rfl
@[simp] theorem State.setOut_draws : (State.setOut v s).draws = s.draws := rfl
@[simp] theorem State.setOut_dbufEpoch : (State.setOut v s).dbufEpoch = s.dbufEpoch := rfl
end setOut

section accept
variable (c : Word)
@[simp] theorem State.accept_params : (State.accept c s).params = s.params := rfl
@[simp] theorem State.accept_keyBytes : (State.accept c s).keyBytes = s.keyBytes := rfl
@[simp] theorem State.accept_keyLen : (State.accept c s).keyLen = s.keyLen := rfl
@[simp] theorem State.accept_nonceBytes : (State.accept c s).nonceBytes = s.nonceBytes := rfl
@[simp] theorem State.accept_nonceLen : (State.accept c s).nonceLen = s.nonceLen := rfl
@[simp] theorem State.accept_counter : (State.accept c s).counter = s.counter := rfl
@[simp] theorem State.accept_len : (State.accept c s).len = s.len := rfl
@[simp] theorem State.accept_qa : (State.accept c s).qa = s.qa := rfl
@[simp] theorem State.accept_qb : (State.accept c s).qb = s.qb := rfl
@[simp] theorem State.accept_qc : (State.accept c s).qc = s.qc := rfl
@[simp] theorem State.accept_qd : (State.accept c s).qd = s.qd := rfl
@[simp] theorem State.accept_regS : (State.accept c s).regS = s.regS := rfl
@[simp] theorem State.accept_regW : (State.accept c s).regW = s.regW := rfl
@[simp] theorem State.accept_regOut : (State.accept c s).regOut = s.regOut := rfl
@[simp] theorem State.accept_dbuf : (State.accept c s).dbuf = s.dbuf := rfl
@[simp] theorem State.accept_cmd : (State.accept c s).cmd = c := rfl
@[simp] theorem State.accept_busy : (State.accept c s).busy = true := rfl
@[simp] theorem State.accept_done : (State.accept c s).done = false := rfl
@[simp] theorem State.accept_err : (State.accept c s).err = .ok := rfl
@[simp] theorem State.accept_ovr : (State.accept c s).ovr = s.ovr := rfl
@[simp] theorem State.accept_doneIe : (State.accept c s).doneIe = s.doneIe := rfl
@[simp] theorem State.accept_pending : (State.accept c s).pending = c := rfl
@[simp] theorem State.accept_inputs : (State.accept c s).inputs = s.inputs := rfl
@[simp] theorem State.accept_responses : (State.accept c s).responses = s.responses := rfl
@[simp] theorem State.accept_draws : (State.accept c s).draws = s.draws := rfl
@[simp] theorem State.accept_dbufEpoch : (State.accept c s).dbufEpoch = s.dbufEpoch := rfl
end accept

section popInput
@[simp] theorem State.popInput_params : (State.popInput s).params = s.params := rfl
@[simp] theorem State.popInput_keyBytes : (State.popInput s).keyBytes = s.keyBytes := rfl
@[simp] theorem State.popInput_keyLen : (State.popInput s).keyLen = s.keyLen := rfl
@[simp] theorem State.popInput_nonceBytes : (State.popInput s).nonceBytes = s.nonceBytes := rfl
@[simp] theorem State.popInput_nonceLen : (State.popInput s).nonceLen = s.nonceLen := rfl
@[simp] theorem State.popInput_counter : (State.popInput s).counter = s.counter := rfl
@[simp] theorem State.popInput_len : (State.popInput s).len = s.len := rfl
@[simp] theorem State.popInput_qa : (State.popInput s).qa = s.qa := rfl
@[simp] theorem State.popInput_qb : (State.popInput s).qb = s.qb := rfl
@[simp] theorem State.popInput_qc : (State.popInput s).qc = s.qc := rfl
@[simp] theorem State.popInput_qd : (State.popInput s).qd = s.qd := rfl
@[simp] theorem State.popInput_regS : (State.popInput s).regS = s.regS := rfl
@[simp] theorem State.popInput_regW : (State.popInput s).regW = s.regW := rfl
@[simp] theorem State.popInput_regOut : (State.popInput s).regOut = s.regOut := rfl
@[simp] theorem State.popInput_dbuf : (State.popInput s).dbuf = s.dbuf := rfl
@[simp] theorem State.popInput_cmd : (State.popInput s).cmd = s.cmd := rfl
@[simp] theorem State.popInput_busy : (State.popInput s).busy = s.busy := rfl
@[simp] theorem State.popInput_done : (State.popInput s).done = s.done := rfl
@[simp] theorem State.popInput_err : (State.popInput s).err = s.err := rfl
@[simp] theorem State.popInput_ovr : (State.popInput s).ovr = s.ovr := rfl
@[simp] theorem State.popInput_doneIe : (State.popInput s).doneIe = s.doneIe := rfl
@[simp] theorem State.popInput_pending : (State.popInput s).pending = s.pending := rfl
@[simp] theorem State.popInput_inputs : (State.popInput s).inputs = s.inputs.tail := rfl
@[simp] theorem State.popInput_responses : (State.popInput s).responses = s.responses := rfl
@[simp] theorem State.popInput_draws : (State.popInput s).draws = s.draws := rfl
@[simp] theorem State.popInput_dbufEpoch : (State.popInput s).dbufEpoch = s.dbufEpoch := rfl
end popInput

section respond
variable (v : Word)
@[simp] theorem State.respond_params : (State.respond v s).params = s.params := rfl
@[simp] theorem State.respond_keyBytes : (State.respond v s).keyBytes = s.keyBytes := rfl
@[simp] theorem State.respond_keyLen : (State.respond v s).keyLen = s.keyLen := rfl
@[simp] theorem State.respond_nonceBytes : (State.respond v s).nonceBytes = s.nonceBytes := rfl
@[simp] theorem State.respond_nonceLen : (State.respond v s).nonceLen = s.nonceLen := rfl
@[simp] theorem State.respond_counter : (State.respond v s).counter = s.counter := rfl
@[simp] theorem State.respond_len : (State.respond v s).len = s.len := rfl
@[simp] theorem State.respond_qa : (State.respond v s).qa = s.qa := rfl
@[simp] theorem State.respond_qb : (State.respond v s).qb = s.qb := rfl
@[simp] theorem State.respond_qc : (State.respond v s).qc = s.qc := rfl
@[simp] theorem State.respond_qd : (State.respond v s).qd = s.qd := rfl
@[simp] theorem State.respond_regS : (State.respond v s).regS = s.regS := rfl
@[simp] theorem State.respond_regW : (State.respond v s).regW = s.regW := rfl
@[simp] theorem State.respond_regOut : (State.respond v s).regOut = s.regOut := rfl
@[simp] theorem State.respond_dbuf : (State.respond v s).dbuf = s.dbuf := rfl
@[simp] theorem State.respond_cmd : (State.respond v s).cmd = s.cmd := rfl
@[simp] theorem State.respond_busy : (State.respond v s).busy = s.busy := rfl
@[simp] theorem State.respond_done : (State.respond v s).done = s.done := rfl
@[simp] theorem State.respond_err : (State.respond v s).err = s.err := rfl
@[simp] theorem State.respond_ovr : (State.respond v s).ovr = s.ovr := rfl
@[simp] theorem State.respond_doneIe : (State.respond v s).doneIe = s.doneIe := rfl
@[simp] theorem State.respond_pending : (State.respond v s).pending = s.pending := rfl
@[simp] theorem State.respond_inputs : (State.respond v s).inputs = s.inputs := rfl
@[simp] theorem State.respond_responses : (State.respond v s).responses = v :: s.responses := rfl
@[simp] theorem State.respond_draws : (State.respond v s).draws = s.draws := rfl
@[simp] theorem State.respond_dbufEpoch : (State.respond v s).dbufEpoch = s.dbufEpoch := rfl
end respond

section takeDraw
@[simp] theorem State.takeDraw_params : (State.takeDraw s).params = s.params := rfl
@[simp] theorem State.takeDraw_keyBytes : (State.takeDraw s).keyBytes = s.keyBytes := rfl
@[simp] theorem State.takeDraw_keyLen : (State.takeDraw s).keyLen = s.keyLen := rfl
@[simp] theorem State.takeDraw_nonceBytes : (State.takeDraw s).nonceBytes = s.nonceBytes := rfl
@[simp] theorem State.takeDraw_nonceLen : (State.takeDraw s).nonceLen = s.nonceLen := rfl
@[simp] theorem State.takeDraw_counter : (State.takeDraw s).counter = s.counter := rfl
@[simp] theorem State.takeDraw_len : (State.takeDraw s).len = s.len := rfl
@[simp] theorem State.takeDraw_qa : (State.takeDraw s).qa = s.qa := rfl
@[simp] theorem State.takeDraw_qb : (State.takeDraw s).qb = s.qb := rfl
@[simp] theorem State.takeDraw_qc : (State.takeDraw s).qc = s.qc := rfl
@[simp] theorem State.takeDraw_qd : (State.takeDraw s).qd = s.qd := rfl
@[simp] theorem State.takeDraw_regS : (State.takeDraw s).regS = s.regS := rfl
@[simp] theorem State.takeDraw_regW : (State.takeDraw s).regW = s.regW := rfl
@[simp] theorem State.takeDraw_regOut : (State.takeDraw s).regOut = s.regOut := rfl
@[simp] theorem State.takeDraw_dbuf : (State.takeDraw s).dbuf = s.dbuf := rfl
@[simp] theorem State.takeDraw_cmd : (State.takeDraw s).cmd = s.cmd := rfl
@[simp] theorem State.takeDraw_busy : (State.takeDraw s).busy = s.busy := rfl
@[simp] theorem State.takeDraw_done : (State.takeDraw s).done = s.done := rfl
@[simp] theorem State.takeDraw_err : (State.takeDraw s).err = s.err := rfl
@[simp] theorem State.takeDraw_ovr : (State.takeDraw s).ovr = s.ovr := rfl
@[simp] theorem State.takeDraw_doneIe : (State.takeDraw s).doneIe = s.doneIe := rfl
@[simp] theorem State.takeDraw_pending : (State.takeDraw s).pending = s.pending := rfl
@[simp] theorem State.takeDraw_inputs : (State.takeDraw s).inputs = s.inputs := rfl
@[simp] theorem State.takeDraw_responses : (State.takeDraw s).responses = s.responses := rfl
@[simp] theorem State.takeDraw_draws : (State.takeDraw s).draws = s.draws + 1 := rfl
@[simp] theorem State.takeDraw_dbufEpoch : (State.takeDraw s).dbufEpoch = s.dbufEpoch := rfl
end takeDraw

section resetCore
@[simp] theorem State.resetCore_params : s.resetCore.params = s.params := rfl
@[simp] theorem State.resetCore_keyBytes : s.resetCore.keyBytes = State.reset.keyBytes := rfl
@[simp] theorem State.resetCore_keyLen : s.resetCore.keyLen = State.reset.keyLen := rfl
@[simp] theorem State.resetCore_nonceBytes : s.resetCore.nonceBytes = State.reset.nonceBytes := rfl
@[simp] theorem State.resetCore_nonceLen : s.resetCore.nonceLen = State.reset.nonceLen := rfl
@[simp] theorem State.resetCore_counter : s.resetCore.counter = State.reset.counter := rfl
@[simp] theorem State.resetCore_len : s.resetCore.len = State.reset.len := rfl
@[simp] theorem State.resetCore_qa : s.resetCore.qa = State.reset.qa := rfl
@[simp] theorem State.resetCore_qb : s.resetCore.qb = State.reset.qb := rfl
@[simp] theorem State.resetCore_qc : s.resetCore.qc = State.reset.qc := rfl
@[simp] theorem State.resetCore_qd : s.resetCore.qd = State.reset.qd := rfl
@[simp] theorem State.resetCore_regS : s.resetCore.regS = State.reset.regS := rfl
@[simp] theorem State.resetCore_regW : s.resetCore.regW = State.reset.regW := rfl
@[simp] theorem State.resetCore_regOut : s.resetCore.regOut = State.reset.regOut := rfl
@[simp] theorem State.resetCore_dbuf : s.resetCore.dbuf = State.reset.dbuf := rfl
@[simp] theorem State.resetCore_cmd : s.resetCore.cmd = State.reset.cmd := rfl
@[simp] theorem State.resetCore_busy : s.resetCore.busy = State.reset.busy := rfl
@[simp] theorem State.resetCore_done : s.resetCore.done = State.reset.done := rfl
@[simp] theorem State.resetCore_err : s.resetCore.err = State.reset.err := rfl
@[simp] theorem State.resetCore_ovr : s.resetCore.ovr = State.reset.ovr := rfl
@[simp] theorem State.resetCore_doneIe : s.resetCore.doneIe = State.reset.doneIe := rfl
@[simp] theorem State.resetCore_pending : s.resetCore.pending = State.reset.pending := rfl
@[simp] theorem State.resetCore_inputs : s.resetCore.inputs = s.inputs := rfl
@[simp] theorem State.resetCore_responses : s.resetCore.responses = s.responses := rfl
@[simp] theorem State.resetCore_draws : s.resetCore.draws = s.draws := rfl
@[simp] theorem State.resetCore_dbufEpoch : s.resetCore.dbufEpoch = s.dbufEpoch + 1 := rfl
end resetCore

end Sys2Proof.Machine
end

