-- ==== Sys2Proof/Laws/Memory.lean ====
section
/-! SUPPORT. The data buffer: what each operation reads as afterwards, and that every operation keeps the canonical form. -/

namespace Sys2Proof.Machine

theorem Memory.read_write (m : Memory) (a b : Nat) (v : Byte) :
    (Memory.write m a v).read b = if b = a then some v else m.read b := by
  induction m with
  | nil => simp [Memory.write, Memory.read]
  | cons c m ih =>
    obtain ⟨d, u⟩ := c
    simp only [Memory.write]
    split_ifs with h1 h2 h3 h4
    · simp [Memory.read, h2]
    · simp [Memory.read, h2]
    · subst h3; simp_all [Memory.read]
    · subst h3; simp_all [Memory.read]
    · simp_all [Memory.read]
    · simp_all [Memory.read]

/-- Where the cells of a written memory lie. -/
theorem Memory.mem_write (m : Memory) (a : Nat) (v : Byte) (c : Host.Cell) (h : c ∈ Memory.write m a v) :
    c = (a, v) ∨ c ∈ m := by
  induction m with
  | nil => simpa [Memory.write] using h
  | cons d m ih =>
    simp only [Memory.write] at h
    split_ifs at h with h1 h2
    · simpa using h
    · rcases List.mem_cons.mp h with h | h
      · exact .inl h
      · exact .inr (List.mem_cons_of_mem _ h)
    · rcases List.mem_cons.mp h with h | h
      · exact .inr (by simp [h])
      · exact (ih h).imp_right (List.mem_cons_of_mem _)

theorem Memory.wf_write (m : Memory) (a : Nat) (v : Byte) (h : m.wf) : (Memory.write m a v).wf := by
  induction m with
  | nil => exact List.pairwise_singleton _ _
  | cons d m ih =>
    obtain ⟨d, u⟩ := d
    have ⟨hd, hm⟩ := List.pairwise_cons.mp h
    simp only [Memory.write]
    split_ifs with h1 h2
    · refine List.pairwise_cons.mpr ⟨fun x hx => ?_, h⟩
      rcases List.mem_cons.mp hx with hx | hx
      · simpa [hx] using h1
      · exact Nat.lt_trans h1 (hd x hx)
    · subst h2; exact List.pairwise_cons.mpr ⟨hd, hm⟩
    · refine List.pairwise_cons.mpr ⟨fun x hx => ?_, ih hm⟩
      obtain ⟨c, hc, rfl⟩ := List.mem_map.mp hx
      rcases Memory.mem_write m a v c hc with rfl | hc
      · exact Nat.lt_of_le_of_ne (Nat.not_lt.mp h1) (fun e => h2 e.symm)
      · exact hd _ (List.mem_map_of_mem hc)

theorem Memory.wf_writeFrom (bs : List Byte) (a : Nat) (m : Memory) (h : m.wf) : (Memory.writeFrom a bs m).wf := by
  induction bs generalizing a m with
  | nil => exact h
  | cons b bs ih => exact ih (a + 1) _ (Memory.wf_write m a b h)

/-- A run of bytes written from `a` reads as those bytes, and every other address as before. -/
theorem Memory.read_writeFrom (bs : List Byte) (a : Nat) (m : Memory) (p : Nat) :
    (Memory.writeFrom a bs m).read p = if a ≤ p ∧ p < a + bs.length then bs[p - a]? else m.read p := by
  induction bs generalizing a m with
  | nil => simp [Memory.writeFrom, show ¬ (a ≤ p ∧ p < a) by omega]
  | cons b bs ih =>
    rw [Memory.writeFrom, ih (a + 1), Memory.read_write m a p b]
    by_cases h1 : a + 1 ≤ p ∧ p < a + 1 + bs.length
    · have h2 : a ≤ p ∧ p < a + (b :: bs).length := by simp; omega
      rw [if_pos h1, if_pos h2, show p - a = (p - (a + 1)) + 1 by omega, List.getElem?_cons_succ]
    · rw [if_neg h1]
      by_cases h2 : p = a
      · subst h2; simp
      · have h3 : ¬ (a ≤ p ∧ p < a + (b :: bs).length) := by simp; omega
        rw [if_neg h2, if_neg h3]

theorem Memory.mem_writeFrom (bs : List Byte) (a : Nat) (m : Memory) (c : Host.Cell)
    (h : c ∈ Memory.writeFrom a bs m) : c ∈ m ∨ (a ≤ c.1 ∧ c.1 < a + bs.length) := by
  induction bs generalizing a m with
  | nil => exact .inl h
  | cons b bs ih =>
    rcases ih (a + 1) _ h with h | h
    · rcases Memory.mem_write m a b c h with rfl | h
      · exact .inr (by simp)
      · exact .inl h
    · exact .inr (by simp; omega)

/-- One lane of a host write. -/
theorem Memory.wf_writeLane (i : Nat) (d : Word) (be : BitVec 4) (m : Memory) (j : Nat) (h : m.wf) :
    (Memory.writeLane i d be m j).wf := by
  unfold Memory.writeLane
  split_ifs
  · exact Memory.wf_write m _ _ h
  · exact h

theorem Memory.read_writeLane (i : Nat) (d : Word) (be : BitVec 4) (m : Memory) (j a : Nat) :
    (Memory.writeLane i d be m j).read a =
      if a = 4 * i + j ∧ be.getLsbD j = true then some (byteLane d j) else m.read a := by
  unfold Memory.writeLane
  split_ifs with h1 h2 h2
  · rw [Memory.read_write m _ _ _, if_pos h2.1]
  · rw [Memory.read_write m _ _ _, if_neg (fun e => h2 ⟨e, h1⟩)]
  · exact absurd h2.2 h1
  · rfl

theorem Memory.mem_writeLane (i : Nat) (d : Word) (be : BitVec 4) (m : Memory) (j : Nat) (c : Host.Cell)
    (h : c ∈ Memory.writeLane i d be m j) : c ∈ m ∨ c.1 = 4 * i + j := by
  unfold Memory.writeLane at h
  split_ifs at h
  · exact (Memory.mem_write m _ _ c h).elim (fun e => .inr (by simp [e])) .inl
  · exact .inl h

/-- A host write of DBUF word i keeps the canonical form. -/
theorem State.dbufWf_writeDbufWord (s : State) (i : Nat) (d : Word) (be : BitVec 4) (h : s.dbuf.wf) :
    (s.writeDbufWord i d be).dbuf.wf := by
  simp only [State.writeDbufWord_dbuf, List.foldl_cons, List.foldl_nil]
  exact Memory.wf_writeLane _ _ _ _ _ (Memory.wf_writeLane _ _ _ _ _ (Memory.wf_writeLane _ _ _ _ _
    (Memory.wf_writeLane _ _ _ _ _ h)))

/-- What DBUF reads as after a host write of its word i. -/
theorem State.memRead_writeDbufWord (s : State) (i : Nat) (d : Word) (be : BitVec 4) (a : Nat) :
    (s.writeDbufWord i d be).memRead a =
      if a / 4 = i ∧ be.getLsbD (a % 4) = true then byteLane d (a % 4) else s.memRead a := by
  simp only [State.memRead, State.writeDbufWord_dbuf, State.writeDbufWord_dbufEpoch, List.foldl_cons, List.foldl_nil]
  rw [Memory.read_writeLane, Memory.read_writeLane, Memory.read_writeLane, Memory.read_writeLane]
  by_cases hi : a / 4 = i
  · obtain hj | hj | hj | hj : a % 4 = 0 ∨ a % 4 = 1 ∨ a % 4 = 2 ∨ a % 4 = 3 := by omega
    all_goals
      have ha : a = 4 * i + a % 4 := by omega
      rw [hj] at ha
      subst ha
      simp [hj, hi]
      split_ifs <;> simp_all
  · have ne (j : Nat) (hj : j < 4) : a ≠ 4 * i + j := by omega
    simp [hi, ne 1, ne 2, ne 3]
    have := ne 0 (by omega)
    simp_all

/-- A memory is determined by what its addresses read as: equal memories are equal data. -/
theorem Memory.ext_of_wf {m n : Memory} (hm : m.wf) (hn : n.wf) (h : ∀ a, m.read a = n.read a) : m = n := by
  have above (m : Memory) (a : Nat) (ha : ∀ x ∈ m.map Prod.fst, a < x) : m.read a = none := by
    induction m with
    | nil => rfl
    | cons c m ih =>
      have := ha c.1 (by simp)
      rw [Memory.read, if_neg (by omega)]
      exact ih fun x hx => ha x (List.mem_cons_of_mem _ hx)
  induction m generalizing n with
  | nil =>
    cases n with
    | nil => rfl
    | cons c n => have := h c.1; simp [Memory.read] at this
  | cons c m ih =>
    cases n with
    | nil => have := h c.1; simp [Memory.read] at this
    | cons d n =>
      obtain ⟨a, u⟩ := c
      obtain ⟨b, v⟩ := d
      have ⟨ha, hm'⟩ := List.pairwise_cons.mp hm
      have ⟨hb, hn'⟩ := List.pairwise_cons.mp hn
      have hab : a = b := by
        rcases Nat.lt_trichotomy a b with hl | he | hl
        · have := h a
          rw [Memory.read, if_pos rfl, Memory.read, if_neg (by omega),
            above n a fun x hx => Nat.lt_trans hl (hb x hx)] at this
          exact absurd this (by simp)
        · exact he
        · have := h b
          rw [Memory.read, if_neg (by omega), above m b fun x hx => Nat.lt_trans hl (ha x hx), Memory.read,
            if_pos rfl] at this
          exact absurd this (by simp)
      subst hab
      have huv : u = v := by simpa [Memory.read] using h a
      subst huv
      congr 1
      refine ih hm' hn' fun p => ?_
      by_cases hp : p = a
      · subst hp; rw [above m p ha, above n p hb]
      · have := h p
        rwa [Memory.read, if_neg hp, Memory.read, if_neg hp] at this

end Sys2Proof.Machine
end

