-- ==== Sys2Proof/Laws/Exec.lean ====
section
/-! SUPPORT. What completing, raising, the operand checks and the meanings can do: said once, cited instead of unfolding. -/

namespace Sys2Proof.Machine

theorem complete_eq_next {s t : State} : complete s = .next t ↔ t = s.finish .ok := by
  constructor
  · intro h; injection h with h; exact h.symm
  · rintro rfl; rfl

theorem raise_eq_next {e : ErrCode} {s t : State} : raise e s = .next t ↔ t = s.finish e := by
  constructor
  · intro h; injection h with h; exact h.symm
  · rintro rfl; rfl

/-- The length check, in the order of R604. -/
theorem State.lengthError_cases (s : State) :
    (s.keyLen ≠ 32 ∧ s.lengthError = some .invalidKeyLength) ∨
    (s.keyLen = 32 ∧ s.nonceLen ≠ 12 ∧ s.lengthError = some .invalidNonceLength) ∨
    (s.keyLen = 32 ∧ s.nonceLen = 12 ∧ s.lengthError = none) := by
  unfold State.lengthError
  by_cases hk : s.keyLen = 32
  · by_cases hn : s.nonceLen = 12
    · exact .inr (.inr ⟨hk, hn, by rw [if_neg (not_not.mpr hk), if_neg (not_not.mpr hn)]⟩)
    · exact .inr (.inl ⟨hk, hn, by rw [if_neg (not_not.mpr hk), if_pos hn]⟩)
  · exact .inl ⟨hk, if_pos hk⟩

/-- XOR's own check. -/
theorem State.dataLengthError_cases (s : State) :
    (s.dbufBytes < s.len.toNat ∧ s.dataLengthError = some .invalidDataLength) ∨
    (s.len.toNat ≤ s.dbufBytes ∧ s.dataLengthError = none) := by
  unfold State.dataLengthError
  by_cases h : s.dbufBytes < s.len.toNat
  · exact .inl ⟨h, if_pos h⟩
  · exact .inr ⟨Nat.not_lt.mp h, if_neg h⟩

/-- The index check is that the four indices have no repetition. -/
theorem pairwiseDistinct_iff (x y z w : Fin 16) : pairwiseDistinct x y z w = true ↔ [x, y, z, w].Nodup := by
  simp [pairwiseDistinct, List.nodup_cons]
  tauto

/-- The state a successful command has written, before its completion sets STATUS. -/
def Wrote (i : Instr) (s u : State) : Prop :=
  match i with
  | .nop => u = s
  | .qr => u = s.setQ (qrf s.qa s.qb s.qc s.qd)
  | .qrw x y z w => [x, y, z, w].Nodup ∧ u = s.setW (qrwf s.regW x y z w)
  | .init => s.keyLen = 32 ∧ s.nonceLen = 12 ∧ u = s.setS (initF s.keyBytes s.counter s.nonceBytes)
  | .copy => u = s.setW s.regS
  | .dround => u = s.setW (drf s.regW)
  | .mix => u = s.setW (mixF s.regW)
  | .addback => u = s.setOut (addBack s.regS s.regW)
  | .block => s.keyLen = 32 ∧ s.nonceLen = 12 ∧
      u = ((s.setS (initF s.keyBytes s.counter s.nonceBytes)).setW (mixF (initF s.keyBytes s.counter s.nonceBytes))).setOut
        (addBack (initF s.keyBytes s.counter s.nonceBytes) (mixF (initF s.keyBytes s.counter s.nonceBytes)))
  | .xor => s.keyLen = 32 ∧ s.nonceLen = 12 ∧ s.len.toNat ≤ s.dbufBytes ∧
      u = s.memWriteFrom 0 (chachaF s.keyBytes s.counter s.nonceBytes s.dataBytes)

/-- The error a command meets, with its cause (R602). -/
def Failed (i : Instr) (s : State) (e : ErrCode) : Prop :=
  match e with
  | .ok => False
  | .illegalCommand => False
  | .illegalIndex => ∃ x y z w, i = .qrw x y z w ∧ ¬ [x, y, z, w].Nodup
  | .invalidKeyLength => (i = .init ∨ i = .block ∨ i = .xor) ∧ s.keyLen ≠ 32
  | .invalidNonceLength => (i = .init ∨ i = .block ∨ i = .xor) ∧ s.keyLen = 32 ∧ s.nonceLen ≠ 12
  | .invalidDataLength => i = .xor ∧ s.keyLen = 32 ∧ s.nonceLen = 12 ∧ s.dbufBytes < s.len.toNat

/-- Everything `exec` can do: complete with the command's writes, or raise the error that applies. -/
theorem exec_outcome (i : Instr) (s : State) :
    (∃ u, Wrote i s u ∧ exec i s = complete u) ∨ (∃ e, Failed i s e ∧ exec i s = raise e s) := by
  cases i with
  | nop => exact .inl ⟨_, rfl, rfl⟩
  | qr => exact .inl ⟨_, rfl, rfl⟩
  | copy => exact .inl ⟨_, rfl, rfl⟩
  | dround => exact .inl ⟨_, rfl, rfl⟩
  | mix => exact .inl ⟨_, rfl, rfl⟩
  | addback => exact .inl ⟨_, rfl, rfl⟩
  | qrw x y z w =>
    by_cases h : [x, y, z, w].Nodup
    · exact .inl ⟨_, ⟨h, rfl⟩, by simp only [exec, execQrw, (pairwiseDistinct_iff x y z w).mpr h, if_true]⟩
    · refine .inr ⟨.illegalIndex, ⟨x, y, z, w, rfl, h⟩, ?_⟩
      simp only [exec, execQrw, mt (pairwiseDistinct_iff x y z w).mp h]
      rfl
  | init =>
    rcases s.lengthError_cases with ⟨hk, h⟩ | ⟨hk, hn, h⟩ | ⟨hk, hn, h⟩
    · exact .inr ⟨.invalidKeyLength, ⟨.inl rfl, hk⟩, by simp only [exec, execInit, h]⟩
    · exact .inr ⟨.invalidNonceLength, ⟨.inl rfl, hk, hn⟩, by simp only [exec, execInit, h]⟩
    · exact .inl ⟨_, ⟨hk, hn, rfl⟩, by simp only [exec, execInit, h]⟩
  | block =>
    rcases s.lengthError_cases with ⟨hk, h⟩ | ⟨hk, hn, h⟩ | ⟨hk, hn, h⟩
    · exact .inr ⟨.invalidKeyLength, ⟨.inr (.inl rfl), hk⟩, by simp only [exec, execBlock, h]⟩
    · exact .inr ⟨.invalidNonceLength, ⟨.inr (.inl rfl), hk, hn⟩, by simp only [exec, execBlock, h]⟩
    · exact .inl ⟨_, ⟨hk, hn, rfl⟩, by simp only [exec, execBlock, h]⟩
  | xor =>
    rcases s.lengthError_cases with ⟨hk, h⟩ | ⟨hk, hn, h⟩ | ⟨hk, hn, h⟩
    · exact .inr ⟨.invalidKeyLength, ⟨.inr (.inr rfl), hk⟩, by simp only [exec, execXor, h]⟩
    · exact .inr ⟨.invalidNonceLength, ⟨.inr (.inr rfl), hk, hn⟩, by simp only [exec, execXor, h]⟩
    · rcases s.dataLengthError_cases with ⟨hd, h'⟩ | ⟨hd, h'⟩
      · exact .inr ⟨.invalidDataLength, ⟨rfl, hk, hn, hd⟩, by simp only [exec, execXor, h, h']⟩
      · exact .inl ⟨_, ⟨hk, hn, hd, rfl⟩, by simp only [exec, execXor, h, h']⟩

/-- The same, read from the next state. -/
theorem exec_next_cases {i : Instr} {s t : State} (h : exec i s = .next t) :
    (∃ u, Wrote i s u ∧ t = u.finish .ok) ∨ (∃ e, Failed i s e ∧ t = s.finish e) := by
  rcases exec_outcome i s with ⟨u, hu, hx⟩ | ⟨e, he, hx⟩
  · exact .inl ⟨u, hu, complete_eq_next.mp (hx ▸ h)⟩
  · exact .inr ⟨e, he, raise_eq_next.mp (hx ▸ h)⟩

/-- An error code that a command fails with is not OK. -/
theorem Failed.ne_ok {i : Instr} {s : State} {e : ErrCode} (h : Failed i s e) : e ≠ .ok := by
  rintro rfl
  exact h

end Sys2Proof.Machine
end

