-- ==== Sys2Proof/Laws/PerInstr.lean ====
section
/-! SUPPORT. A family of statements, one per command (LAWS.json "per_instruction"): the encoding of a command is a word of
its row of spec/opcode_table.json. -/

namespace Sys2Proof.Laws.RowOfEncoding

/-- The command's row of the table, the only one with its mnemonic, matches its encoding. -/
abbrev Statement (i : Instr) : Prop :=
  ((opcodeTable.filter (·.mnemonic == i.mnemonic)).map (·.matches (encode i))) = [true]

theorem nop : Statement .nop := by decide
theorem qr : Statement .qr := by decide
theorem init : Statement .init := by decide
theorem copy : Statement .copy := by decide
theorem dround : Statement .dround := by decide
theorem mix : Statement .mix := by decide
theorem addback : Statement .addback := by decide
theorem block : Statement .block := by decide
theorem xor : Statement .xor := by decide

/-- The bits of a QRW word outside its four index fields are the row's. -/
theorem qrw_fixed_bits (x y z w : Fin 16) : encode (.qrw x y z w) &&& 0xFF0000FF = 0x00000002 := by
  have small (a : Fin 16) (k : Nat) (h : 4 ≤ k) : (indexBits a).getLsbD k = false := by
    rw [indexBits, BitVec.getLsbD_ofNat, Nat.testBit_lt_two_pow]
    · simp
    · exact Nat.lt_of_lt_of_le a.isLt (Nat.pow_le_pow_right (i := 4) (by decide : 0 < 2) h)
  apply BitVec.eq_of_getLsbD_eq
  intro k hk
  simp only [encode, BitVec.getLsbD_and, BitVec.getLsbD_or, BitVec.getLsbD_shiftLeft]
  by_cases h1 : k < 8
  · simp [h1, show k < 12 by omega, show k < 16 by omega, show k < 20 by omega]
    interval_cases k <;> decide
  · by_cases h2 : k < 24
    · have h : (0xFF0000FF : Word).getLsbD k = false := by interval_cases k <;> decide
      rw [h, Bool.and_false]
      interval_cases k <;> decide
    · rw [small x _ (by omega), small y _ (by omega), small z _ (by omega), small w _ (by omega)]
      interval_cases k <;> decide

theorem qrw (x y z w : Fin 16) : Statement (.qrw x y z w) := by
  have h : (opcodeTable.filter (·.mnemonic == (Instr.qrw x y z w).mnemonic)) = [⟨"QRW", 0x00000002, 0xFF0000FF⟩] := rfl
  rw [Statement, h, List.map_singleton, OpcodeRow.matches, decide_eq_true (qrw_fixed_bits x y z w)]

end Sys2Proof.Laws.RowOfEncoding
end

