-- ==== Sys2Proof/Laws/Step.lean ====
section
/-! SUPPORT. What a transaction and a step can do, said once. -/

namespace Sys2Proof.Machine

/-- A host write is lost, or it is the register's own write. -/
theorem State.busWrite_cases (s : State) (A : BitVec 11) (data : Word) (be : BitVec 4) :
    (s.writeIsLost A = true ∧ s.busWrite A data be = s.flagOvr) ∨
    (s.writeIsLost A = false ∧ s.busWrite A data be = s.writeReg (s.regAt A) data be) := by
  unfold State.busWrite
  cases h : s.writeIsLost A
  · exact .inr ⟨rfl, rfl⟩
  · exact .inl ⟨rfl, rfl⟩

/-- A host read gives the host a word, and an open one uses up a free word: nothing else changes. -/
theorem State.hostRead_eq (s : State) (A : BitVec 11) :
    s.hostRead A =
      { s with responses := s.busRead A :: s.responses, draws := if s.readIsOpen A then s.draws + 1 else s.draws } := by
  unfold State.hostRead
  cases h : s.readIsOpen A <;> rfl

section writeReg
variable (s : State) (r : Reg) (d : Word) (be : BitVec 4)
@[simp] theorem State.writeReg_params : (s.writeReg r d be).params = s.params := by cases r <;> simp [State.writeReg]
@[simp] theorem State.writeReg_inputs : (s.writeReg r d be).inputs = s.inputs := by cases r <;> simp [State.writeReg]
@[simp] theorem State.writeReg_responses : (s.writeReg r d be).responses = s.responses := by cases r <;> simp [State.writeReg]
@[simp] theorem State.writeReg_draws : (s.writeReg r d be).draws = s.draws := by cases r <;> simp [State.writeReg]
@[simp] theorem State.writeReg_dbufEpoch : (s.writeReg r d be).dbufEpoch = s.dbufEpoch := by cases r <;> simp [State.writeReg]
end writeReg

/-- Only a write to CMD changes the sequencer's state, CMD or ERR. -/
theorem State.writeReg_keeps_command (s : State) (r : Reg) (d : Word) (be : BitVec 4) (h : r ≠ .cmd) :
    (s.writeReg r d be).busy = s.busy ∧ (s.writeReg r d be).pending = s.pending ∧
    (s.writeReg r d be).cmd = s.cmd ∧ (s.writeReg r d be).err = s.err := by
  cases r <;> simp_all [State.writeReg]

/-- Only a write to a DBUF word changes the data buffer. -/
theorem State.writeReg_keeps_dbuf (s : State) (r : Reg) (d : Word) (be : BitVec 4) (h : ∀ i, r ≠ .dbuf i) :
    (s.writeReg r d be).dbuf = s.dbuf := by
  cases r <;> simp_all [State.writeReg]

/-- Taking the served entry off an empty list of inputs changes nothing. -/
theorem State.popInput_of_nil (s : State) (h : s.inputs = []) : s.popInput = s := by
  cases s
  simp_all [State.popInput]

/-- What the sequencer's step is: the pending word's command, or the illegal word's error. -/
theorem sequencerStep_cases (s : State) :
    (∃ i, decode s.pending = .command i ∧ sequencerStep s = exec i s) ∨
    (∃ why, decode s.pending = .illegal why ∧ sequencerStep s = raise .illegalCommand s) := by
  unfold sequencerStep
  cases h : decode s.pending with
  | command i => exact .inl ⟨i, rfl, rfl⟩
  | illegal why => exact .inr ⟨why, rfl, rfl⟩

/-- Everything a step can do. -/
theorem step_cases {s t : State} (h : step s = .next t) :
    (s.busy = true ∧ (s.inputs = [] ∨ ∃ rest, s.inputs = .sequencer :: rest) ∧ sequencerStep s.popInput = .next t) ∨
    (s.busy = false ∧ (s.inputs = [] ∨ ∃ rest, s.inputs = .sequencer :: rest) ∧ t = s.popInput) ∨
    (∃ tr rest, s.inputs = .host tr :: rest ∧ t = hostTransaction tr s.popInput) ∨
    (∃ rest, s.inputs = .reset :: rest ∧ t = s.popInput.resetCore) := by
  unfold step at h
  split at h
  case h_1 hin =>
    rw [← s.popInput_of_nil hin] at h
    cases hb : s.busy
    · rw [State.popInput_busy, hb] at h
      exact .inr (.inl ⟨rfl, .inl hin, by injection h with h; exact h.symm⟩)
    · rw [State.popInput_busy, hb] at h
      exact .inl ⟨rfl, .inl hin, h⟩
  case h_2 rest hin =>
    cases hb : s.busy
    · rw [hb] at h
      exact .inr (.inl ⟨rfl, .inr ⟨rest, hin⟩, by injection h with h; exact h.symm⟩)
    · rw [hb] at h
      exact .inl ⟨rfl, .inr ⟨rest, hin⟩, h⟩
  case h_3 tr rest hin => exact .inr (.inr (.inl ⟨tr, rest, hin, by injection h with h; exact h.symm⟩))
  case h_4 rest hin => exact .inr (.inr (.inr ⟨rest, hin, by injection h with h; exact h.symm⟩))

end Sys2Proof.Machine
end

