-- ==== Sys2Proof/Laws/Window.lean ====
section
/-! SUPPORT. The register map, as equations between registers and word indices. -/

namespace Sys2Proof.Machine

/-- The row of R203's map that a word index lies in. -/
theorem regAt_cases (p : Params) (A : BitVec 11) :
    (A.toNat / 16 = 0 ∧ regAt p A = regRow0 (A.toNat % 16)) ∨
    (A.toNat / 16 = 1 ∧ regAt p A = regRow1 (A.toNat % 16)) ∨
    (A.toNat / 16 = 2 ∧ regAt p A = .s (Fin.ofNat 16 A.toNat)) ∨
    (A.toNat / 16 = 3 ∧ regAt p A = .w (Fin.ofNat 16 A.toNat)) ∨
    (A.toNat / 16 = 4 ∧ regAt p A = .out (Fin.ofNat 16 A.toNat)) ∨
    (0x400 ≤ A.toNat ∧ A.toNat < 0x400 + p.dbufWords ∧ regAt p A = .dbuf (A.toNat - 0x400)) ∨
    (5 ≤ A.toNat / 16 ∧ ¬ (0x400 ≤ A.toNat ∧ A.toNat < 0x400 + p.dbufWords) ∧ regAt p A = .unmapped) := by
  unfold regAt
  dsimp only
  split
  case h_1 h => exact .inl ⟨h, rfl⟩
  case h_2 h => exact .inr (.inl ⟨h, rfl⟩)
  case h_3 h => exact .inr (.inr (.inl ⟨h, rfl⟩))
  case h_4 h => exact .inr (.inr (.inr (.inl ⟨h, rfl⟩)))
  case h_5 h => exact .inr (.inr (.inr (.inr (.inl ⟨h, rfl⟩))))
  case h_6 h0 h1 h2 h3 h4 =>
    by_cases h : 0x400 ≤ A.toNat ∧ A.toNat < 0x400 + p.dbufWords
    · exact .inr (.inr (.inr (.inr (.inr (.inl ⟨h.1, h.2, if_pos h⟩)))))
    · refine .inr (.inr (.inr (.inr (.inr (.inr ⟨?_, h, if_neg h⟩)))))
      have := h0; have := h1; have := h2; have := h3; have := h4
      simp only [imp_false] at *
      omega

/-- A word index in row r of the map is 16r + its column. -/
theorem index_of_row (A : BitVec 11) (r : Nat) (h : A.toNat / 16 = r) :
    A = BitVec.ofNat 11 (16 * r + A.toNat % 16) := by
  apply BitVec.eq_of_toNat_eq
  simp
  omega

/-- A mapped word index is the index of its register: no register has two. -/
theorem index_regAt (p : Params) (A : BitVec 11) (h : regAt p A ≠ .unmapped) : (regAt p A).index = A := by
  rcases regAt_cases p A with ⟨hr, e⟩ | ⟨hr, e⟩ | ⟨hr, e⟩ | ⟨hr, e⟩ | ⟨hr, e⟩ | ⟨hl, hu, e⟩ | ⟨hr, hn, e⟩
  · rw [e]
    refine Eq.trans ?_ (index_of_row A 0 hr).symm
    have low : ∀ c < 16, (regRow0 c).index = BitVec.ofNat 11 (16 * 0 + c) := by decide
    exact low _ (Nat.mod_lt _ (by decide))
  · rw [e] at h ⊢
    refine Eq.trans ?_ (index_of_row A 1 hr).symm
    have low : ∀ c < 16, regRow1 c ≠ .unmapped → (regRow1 c).index = BitVec.ofNat 11 (16 * 1 + c) := by decide
    exact low _ (Nat.mod_lt _ (by decide)) h
  · rw [e]; exact (index_of_row A 2 hr).symm
  · rw [e]; exact (index_of_row A 3 hr).symm
  · rw [e]; exact (index_of_row A 4 hr).symm
  · rw [e]
    apply BitVec.eq_of_toNat_eq
    have := A.isLt
    simp [Reg.index]
    omega
  · exact absurd e h

theorem readableWhileBusy_iff (r : Reg) : r.readableWhileBusy = true ↔ r = .id ∨ r = .cmd ∨ r = .status ∨ r = .irqEn := by
  cases r <;> simp [Reg.readableWhileBusy]

theorem writableWhileBusy_iff (r : Reg) : r.writableWhileBusy = true ↔ r = .status ∨ r = .irqEn := by
  cases r <;> simp [Reg.writableWhileBusy]

/-- The registers below index 4, by name. -/
theorem regAt_eq_iff_control (p : Params) (A : BitVec 11) :
    (regAt p A = .id ↔ A = 0) ∧ (regAt p A = .cmd ↔ A = 1) ∧ (regAt p A = .status ↔ A = 2) ∧ (regAt p A = .irqEn ↔ A = 3) := by
  have back (r : Reg) (hr : r ≠ .unmapped) (h : regAt p A = r) : A = r.index := by
    rw [← h, index_regAt p A (h ▸ hr)]
  refine ⟨⟨back .id (by decide), ?_⟩, ⟨back .cmd (by decide), ?_⟩, ⟨back .status (by decide), ?_⟩, ⟨back .irqEn (by decide), ?_⟩⟩
  all_goals rintro rfl; rfl

/-- A write is lost exactly while busy and at an address other than STATUS and IRQ_EN (R117). -/
theorem State.writeIsLost_iff (s : State) (A : BitVec 11) :
    s.writeIsLost A = true ↔ s.busy = true ∧ A ≠ 2 ∧ A ≠ 3 := by
  obtain ⟨-, -, h2, h3⟩ := regAt_eq_iff_control s.params A
  rw [State.writeIsLost, State.regAt, Bool.and_eq_true, Bool.not_eq_true', ← Bool.not_eq_true, writableWhileBusy_iff, h2, h3,
    not_or]

/-- A read is unspecified exactly while busy and at an address other than ID, CMD, STATUS and IRQ_EN (R205). -/
theorem State.readIsOpen_iff (s : State) (A : BitVec 11) : s.readIsOpen A = true ↔ s.busy = true ∧ 4 ≤ A.toNat := by
  obtain ⟨h0, h1, h2, h3⟩ := regAt_eq_iff_control s.params A
  rw [State.readIsOpen, State.regAt, Bool.and_eq_true, Bool.not_eq_true', ← Bool.not_eq_true, readableWhileBusy_iff, h0, h1,
    h2, h3]
  refine and_congr_right fun _ => ?_
  rw [← BitVec.toNat_inj, ← BitVec.toNat_inj, ← BitVec.toNat_inj, ← BitVec.toNat_inj]
  simp
  omega

end Sys2Proof.Machine
end

