-- ==== Sys2Proof/Tests/Slice0.lean ====
section
/-! SUPPORT. Tests. Expected values come from spec/95_test_vectors.md (the id stands in each comment), spec/30_encoding.md or
the rule named; none is the model's own answer. After them, a witness for the hypotheses of every statement that has any. -/

namespace Sys2Proof.Tests

open Sys2Proof Sys2Proof.Machine

/-- A field of the next state. -/
def got {α : Type} (f : State → α) (r : Result) : Option α :=
  match r with
  | .next t => some (f t)
  | .fault _ => none
  | .refused _ => none

/-- KEY_A of spec/95_test_vectors.md: bytes 00 01 .. 1f. -/
def keyA : Vector Byte 32 := Vector.ofFn fun i => BitVec.ofNat 8 i.val

/-- NONCE_B. -/
def nonceB : Vector Byte 12 := #v[0, 0, 0, 0x09, 0, 0, 0, 0x4a, 0, 0, 0, 0]

/-- NONCE_S. -/
def nonceS : Vector Byte 12 := #v[0, 0, 0, 0, 0, 0, 0, 0x4a, 0, 0, 0, 0]

/-- ST_B. -/
def stB : Words16 :=
  #v[0x61707865, 0x3320646e, 0x79622d32, 0x6b206574, 0x03020100, 0x07060504, 0x0b0a0908, 0x0f0e0d0c,
     0x13121110, 0x17161514, 0x1b1a1918, 0x1f1e1d1c, 0x00000001, 0x09000000, 0x4a000000, 0x00000000]

/-- V-B2: W after the mixing pass on ST_B. -/
def mixedB : Words16 :=
  #v[0x837778ab, 0xe238d763, 0xa67ae21e, 0x5950bb2f, 0xc4f2d0c7, 0xfc62bb2f, 0x8fa018fc, 0x3f5ec7b7,
     0x335271c2, 0xf29489f3, 0xeabda8fc, 0x82e46ebd, 0xd19c12b4, 0xb04e16de, 0x9e83d0cb, 0x4e3c50a2]

/-- V-S4: the output block. -/
def outB : Words16 :=
  #v[0xe4e7f110, 0x15593bd1, 0x1fdd0f50, 0xc47120a3, 0xc7f4d1c7, 0x0368c033, 0x9aaa2204, 0x4e6cd4c3,
     0x466482d2, 0x09aa9f07, 0x05d7c214, 0xa2028bd9, 0xd19c12b5, 0xb94e16de, 0xe883d0cb, 0x4e3c50a2]

/-- The state with KEY_A, its nonce, both lengths and COUNTER = 1. -/
def keyed (n : Vector Byte 12) : State :=
  { State.reset with keyBytes := keyA, keyLen := 32, nonceBytes := n, nonceLen := 12, counter := 1 }

/-- A data buffer holding exactly these bytes. -/
def buffer (bs : List Byte) : Memory := bs.zipIdx.map fun p => (p.2, p.1)

/-- The state `keyed nonceS` with these bytes in DBUF and LEN set to their number. -/
def withData (bs : List Byte) : State :=
  { keyed nonceS with dbuf := buffer bs, len := BitVec.ofNat 32 bs.length }

/-- A machine right after the acceptance of a command word, the sequencer's turn next. -/
def running (s : State) (c : Word) : State := { s.accept c with inputs := [.sequencer] }

/-! ## Well-formedness: an ill-formed term for each check -/

theorem test_wf_refuses_x_is_y : (Instr.qrw 1 1 2 3).wf = false := by decide
theorem test_wf_refuses_x_is_z : (Instr.qrw 1 2 1 3).wf = false := by decide
theorem test_wf_refuses_x_is_w : (Instr.qrw 1 2 3 1).wf = false := by decide
theorem test_wf_refuses_y_is_z : (Instr.qrw 1 2 2 3).wf = false := by decide
theorem test_wf_refuses_y_is_w : (Instr.qrw 1 2 3 2).wf = false := by decide
theorem test_wf_refuses_z_is_w : (Instr.qrw 1 2 3 3).wf = false := by decide
theorem test_wf_takes_distinct_indices : (Instr.qrw 15 0 7 3).wf = true := by decide
theorem test_wf_refuses_no_buffer : (Params.mk 0 0).wf = false := by decide
theorem test_wf_refuses_too_large_a_buffer : (Params.mk 1025 0).wf = false := by decide
theorem test_wf_takes_the_bounds : (Params.mk 1 0).wf = true ∧ (Params.mk 1024 0).wf = true := by decide

/-! ## Decoding: words written out from the patterns of R303 -/

theorem test_decode_nop : decode 0b00000000000000000000000000000000 = .command .nop := by decide
theorem test_decode_qr : decode 0b00000000000000000000000000000001 = .command .qr := by decide
/-- P4 and V-S2: `qrw 2, 7, 8, 13` is 0x00D87202, wwww zzzz yyyy xxxx = 1101 1000 0111 0010. -/
theorem test_decode_qrw : decode 0b00000000110110000111001000000010 = .command (.qrw 2 7 8 13) := by decide
/-- P4: `qrw 0, 4, 8, 12` is 0x00c84002. -/
theorem test_decode_qrw_first_column : decode 0x00c84002 = .command (.qrw 0 4 8 12) := by decide
theorem test_decode_init : decode 0b00000000000000000000000000000011 = .command .init := by decide
theorem test_decode_copy : decode 0b00000000000000000000000000000100 = .command .copy := by decide
theorem test_decode_dround : decode 0b00000000000000000000000000000101 = .command .dround := by decide
theorem test_decode_mix : decode 0b00000000000000000000000000000110 = .command .mix := by decide
theorem test_decode_addback : decode 0b00000000000000000000000000000111 = .command .addback := by decide
theorem test_decode_block : decode 0b00000000000000000000000000001000 = .command .block := by decide
theorem test_decode_xor : decode 0b00000000000000000000000000001001 = .command .xor := by decide
/-- R304: OP 0xA and 0xF are reserved. -/
theorem test_decode_reserved_opcodes :
    decode 0x0000000A = .illegal .reservedOpcode ∧ decode 0x0000000F = .illegal .reservedOpcode := by decide
/-- V-D3, V-D5. -/
theorem test_decode_reserved_bits :
    decode 0x00000011 = .illegal .reservedBits ∧ decode 0x01000000 = .illegal .reservedBits := by decide
/-- V-D4. -/
theorem test_decode_reserved_index_fields : decode 0x00000103 = .illegal .reservedIndexFields := by decide
/-- No two rows of the opcode table share a word: where both masks look, the patterns differ. -/
theorem test_opcode_rows_disjoint :
    opcodeTable.Pairwise fun a b => a.pattern &&& (a.mask &&& b.mask) ≠ b.pattern &&& (a.mask &&& b.mask) := by decide
theorem test_encode_qrw : encode (.qrw 2 7 8 13) = 0x00D87202 := by decide
theorem test_decodeTableWord : decodeTableWord 32 0x00D87202 = some (.qrw 2 7 8 13) := by decide

/-! ## The commands, one step each -/

/-- V-D1, R491: STATUS reads 0x00000002 after a NOP. -/
theorem test_nop_status : got State.statusWord (step (State.reset.withFetchWord 32 0)) = some 0x00000002 := by decide
/-- R491: a stale ERR is gone, OVR stays. -/
theorem test_nop_keeps_ovr :
    got State.statusWord (step (running { State.reset with err := .illegalIndex, ovr := true } 0)) = some 0x00000102 := by
  decide

/-- V-S1, P1. -/
theorem test_qr_source_vector :
    got (fun t => (t.qa, t.qb, t.qc, t.qd))
      (step (running { State.reset with qa := 0x11111111, qb := 0x01020304, qc := 0x9b8d6f43, qd := 0x01234567 } 1)) =
    some (0xea2a92f4, 0xcb1cf8ce, 0x4581472e, 0x5881c4bb) := by decide
/-- V-Q2: every addition wraps. -/
theorem test_qr_wraps :
    qrf 0xffffffff 0xffffffff 0xffffffff 0xffffffff = (0xf0000ffd, 0x88790878, 0x0110fdef, 0x010ffdf0) := by decide

/-- V-S2. -/
theorem test_qrw_source_vector :
    got (fun t => t.regW.toList)
      (step (running { State.reset with regW :=
        #v[0x879531e0, 0xc5ecf37d, 0x516461b1, 0xc9a62f8a, 0x44c20ef3, 0x3390af7f, 0xd9fc690b, 0x2a5f714c,
           0x53372767, 0xb00a5631, 0x974c541a, 0x359e9963, 0x5c971061, 0x3d631689, 0x2098d9d6, 0x91dbd320] } 0x00D87202)) =
    some [0x879531e0, 0xc5ecf37d, 0xbdb886dc, 0xc9a62f8a, 0x44c20ef3, 0x3390af7f, 0xd9fc690b, 0xcfacafd2,
          0xe46bea80, 0xb00a5631, 0x974c541a, 0x359e9963, 0x5c971061, 0xccc07c79, 0x2098d9d6, 0x91dbd320] := by
  decide +kernel
/-- V-Q8. -/
theorem test_qrw_repeated_index :
    got (fun t => (t.statusWord, t.regW.toList)) (step (running { State.reset with regW := stB } 0x00321102)) =
    some (0x00000052, stB.toList) := by decide +kernel

/-- V-S3, V-I1. -/
theorem test_init_source_vector :
    got (fun t => (t.statusWord, t.regS.toList)) (step (running (keyed nonceB) 3)) = some (0x00000002, stB.toList) := by
  decide +kernel
/-- V-I4: the key error has priority. -/
theorem test_init_error_priority :
    got State.statusWord (step (running { keyed nonceB with keyLen := 31, nonceLen := 13 } 3)) = some 0x00000012 := by
  decide +kernel

/-- R443's example. -/
theorem test_copy : got (fun t => (t.regW.toList, t.regS.toList)) (step (running { State.reset with regS := stB } 4)) =
    some (stB.toList, stB.toList) := by decide +kernel

/-- V-B1. -/
theorem test_dround :
    got (fun t => t.regW.toList) (step (running { State.reset with regW := stB } 5)) =
    some [0xcd52e917, 0x85ab03b4, 0xb3457395, 0xf96de7dd, 0xc4b7cd22, 0x5c2e187a, 0xc95eb461, 0x316c801a,
          0x7bf7d740, 0x7eddd644, 0xf1a1bdf5, 0x761246ca, 0x6b0d58a3, 0x6798471a, 0xd737f167, 0xf173888d] := by
  decide +kernel
/-- V-Q10: the column round. -/
theorem test_column_round :
    (columnRound stB).toList =
    [0xabbaa25c, 0x1efa51ea, 0x7354fbdf, 0x83d2dc69, 0x3a465196, 0x1c7e64f6, 0xb12fb628, 0xf05b6976,
     0x6b3ca454, 0x08eb14b1, 0xbf8a9ac9, 0xe444df3b, 0xdec62ed2, 0x8862cc77, 0x6e35b345, 0x52a647f1] := by
  decide +kernel

/-- V-B2. -/
theorem test_mix : got (fun t => t.regW.toList) (step (running { State.reset with regW := stB } 6)) = some mixedB.toList := by
  decide +kernel

/-- V-B2 and V-S4. -/
theorem test_addback :
    got (fun t => t.regOut.toList) (step (running { State.reset with regS := stB, regW := mixedB } 7)) = some outB.toList := by
  decide +kernel
/-- V-B6. -/
theorem test_addback_wraps : (addBack (Vector.replicate 16 0xffffffff) (Vector.replicate 16 2)).toList =
    List.replicate 16 1 := by decide +kernel

/-- V-S4, P2. -/
theorem test_block_source_vector :
    got (fun t => (t.regOut.toList, t.regW.toList)) (step (running (keyed nonceB) 8)) = some (outB.toList, mixedB.toList) := by
  decide +kernel
/-- V-B7. -/
theorem test_block_nonce_length :
    got (fun t => (t.statusWord, t.regOut.toList)) (step (running { keyed nonceB with nonceLen := 11, regOut := stB } 8)) =
    some (0x00000022, stB.toList) := by decide +kernel

/-- V-S5's plaintext, 114 ASCII bytes. -/
def sunscreen : List Byte :=
  [0x4c, 0x61, 0x64, 0x69, 0x65, 0x73, 0x20, 0x61, 0x6e, 0x64, 0x20, 0x47, 0x65, 0x6e, 0x74, 0x6c, 0x65, 0x6d, 0x65] ++
  [0x6e, 0x20, 0x6f, 0x66, 0x20, 0x74, 0x68, 0x65, 0x20, 0x63, 0x6c, 0x61, 0x73, 0x73, 0x20, 0x6f, 0x66, 0x20, 0x27] ++
  [0x39, 0x39, 0x3a, 0x20, 0x49, 0x66, 0x20, 0x49, 0x20, 0x63, 0x6f, 0x75, 0x6c, 0x64, 0x20, 0x6f, 0x66, 0x66, 0x65] ++
  [0x72, 0x20, 0x79, 0x6f, 0x75, 0x20, 0x6f, 0x6e, 0x6c, 0x79, 0x20, 0x6f, 0x6e, 0x65, 0x20, 0x74, 0x69, 0x70, 0x20] ++
  [0x66, 0x6f, 0x72, 0x20, 0x74, 0x68, 0x65, 0x20, 0x66, 0x75, 0x74, 0x75, 0x72, 0x65, 0x2c, 0x20, 0x73, 0x75, 0x6e] ++
  [0x73, 0x63, 0x72, 0x65, 0x65, 0x6e, 0x20, 0x77, 0x6f, 0x75, 0x6c, 0x64, 0x20, 0x62, 0x65, 0x20, 0x69, 0x74, 0x2e]

/-- V-X5. -/
theorem test_xor_sunscreen :
    got (fun t => t.dbuf) (step (running (withData sunscreen) 9)) = some (buffer (
  [0x6e, 0x2e, 0x35, 0x9a, 0x25, 0x68, 0xf9, 0x80, 0x41, 0xba, 0x07, 0x28, 0xdd, 0x0d, 0x69, 0x81, 0xe9, 0x7e, 0x7a] ++
  [0xec, 0x1d, 0x43, 0x60, 0xc2, 0x0a, 0x27, 0xaf, 0xcc, 0xfd, 0x9f, 0xae, 0x0b, 0xf9, 0x1b, 0x65, 0xc5, 0x52, 0x47] ++
  [0x33, 0xab, 0x8f, 0x59, 0x3d, 0xab, 0xcd, 0x62, 0xb3, 0x57, 0x16, 0x39, 0xd6, 0x24, 0xe6, 0x51, 0x52, 0xab, 0x8f] ++
  [0x53, 0x0c, 0x35, 0x9f, 0x08, 0x61, 0xd8, 0x07, 0xca, 0x0d, 0xbf, 0x50, 0x0d, 0x6a, 0x61, 0x56, 0xa3, 0x8e, 0x08] ++
  [0x8a, 0x22, 0xb6, 0x5e, 0x52, 0xbc, 0x51, 0x4d, 0x16, 0xcc, 0xf8, 0x06, 0x81, 0x8c, 0xe9, 0x1a, 0xb7, 0x79, 0x37] ++
  [0x36, 0x5a, 0xf9, 0x0b, 0xbf, 0x74, 0xa3, 0x5b, 0xe6, 0xb4, 0x0b, 0x8e, 0xed, 0xf2, 0x78, 0x5e, 0x42, 0x87, 0x4d])) := by
  decide +kernel
/-- V-X4: 65 bytes, the last with byte 0 of the next block (R476). -/
theorem test_xor_one_byte_past_a_block :
    got (fun t => (t.dbuf.map Prod.snd).drop 62) (step (running (withData (List.replicate 65 0)) 9)) =
    some [0x41, 0xb7, 0x69] := by decide +kernel
/-- V-X8: DBUF_BYTES + 1. -/
theorem test_xor_data_length :
    got State.statusWord (step (running { keyed nonceS with len := 4097 } 9)) = some 0x00000032 := by decide +kernel

/-- V-D2: the illegal word completes with its code, and CMD reads it back. -/
theorem test_illegal_word :
    got (fun t => (t.statusWord, t.busRead 1)) (step (running State.reset 0x0000000A)) = some (0x00000042, 0x0000000A) := by
  decide

/-! ## The bus -/

/-- V-M1, V-M2, V-R1. -/
theorem test_read_after_reset :
    State.reset.busRead 0 = 0x30324343 ∧ State.reset.busRead 0x013 = 0 ∧ State.reset.busRead 0x050 = 0 ∧
    State.reset.busRead 2 = 0 ∧ State.reset.busRead 4 = 0 ∧ State.reset.busRead 0x020 = 0 ∧ State.reset.busRead 1 = 0 := by
  decide +kernel
/-- V-M3. -/
theorem test_byte_enables :
    ((State.reset.busWrite 6 0x11223344 0b1111).busWrite 6 0xAABBCCDD 0b0101).busRead 6 = 0x11BB33DD := by decide
/-- V-M4. -/
theorem test_length_register_keeps_8_bits : (State.reset.busWrite 4 0x12345620 0b1111).busRead 4 = 0x00000020 := by decide
/-- V-M5. -/
theorem test_key_lanes :
    ((State.reset.busWrite 8 0x03020100 0b1111).keyBytes.toList.take 4) = [0, 1, 2, 3] := by decide +kernel
/-- V-M6, V-M9: writes while busy are lost and set OVR. -/
theorem test_lost_writes :
    ((State.reset.accept 0).busWrite 0x014 5 0b1111).statusWord = 0x00000101 ∧
    ((State.reset.accept 0).busWrite 0x014 5 0b1111).qa = 0 ∧
    ((State.reset.accept 0).busWrite 1 1 0b1111).pending = 0 := by decide
/-- V-M7 (from V-M6's end) and V-M10. -/
theorem test_acknowledge :
    (({ State.reset with done := true, ovr := true }).busWrite 2 0x100 0b1111).statusWord = 2 ∧
    (({ State.reset with done := true, ovr := true, err := .illegalCommand }).busWrite 2 0xFFFFFFFF 0).statusWord = 0x40 := by
  decide
/-- V-M8. -/
theorem test_irq :
    got State.irq (step (running (State.reset.busWrite 3 1 0) 0)) = some true ∧
    (({ State.reset with done := true, doneIe := true }).busWrite 2 2 0b1111).irq = false := by decide
/-- P3: the last DBUF word with be = 0b0011 lands two bytes. -/
theorem test_partial_buffer_word : (State.reset.busWrite 0x41c 0x00002e74 0b0011).dbuf = [(112, 0x74), (113, 0x2e)] := by
  decide +kernel
/-- P3: `ldbuf` writes the words and byte enables of the listing. -/
theorem test_ldbuf_words :
    (Asm.ldbuf sunscreen)[0]? = some (.host (.write 0x400 0x6964614c 0b1111)) ∧
    (Asm.ldbuf sunscreen)[28]? = some (.host (.write 0x41c 0x00002e74 0b0011)) ∧
    (Asm.ldbuf sunscreen)[29]? = some (.host (.write 0x007 0x00000072 0b1111)) := by decide +kernel
/-- R307, R203: a statement by word index and one by name are the same transaction, with byte enables and without. -/
theorem test_statements_by_index :
    Asm.wrAtBe 0x41c 0x00002e74 0b0011 = Asm.wrBe (.dbuf 28) 0x00002e74 0b0011 ∧
    Asm.wrAtBe 0x013 5 0b0001 = .host (.write 0x013 5 0b0001) ∧
    Asm.wrAt 0x006 7 = Asm.wr .counter 7 ∧ Asm.rdAt 0x04F = Asm.rd (.out 15) := by decide
/-- V-Q9. -/
theorem test_rotl32 : rotl32 0x80000001 16 = 0x00018000 ∧ rotl32 0x80000001 7 = 0x000000c0 := by decide
/-- R701, R703: reset aborts a running command. -/
theorem test_reset_aborts :
    got (fun t => (t.statusWord, t.busRead 1, t.dbuf))
      (step { running (withData [1, 2, 3]) 9 with inputs := [.reset] }) = some (0, 0, []) := by decide +kernel

/-! ## Witnesses: for every statement that has hypotheses, concrete states and operands that meet them all together, one for
each clause, at the ends of a range where there is one -/

/-- A busy machine with these entries ahead. -/
def busyWith (s : State) (c : Word) (es : List Event) : State := { s.accept c with inputs := es }

/-- An idle machine with these entries ahead. -/
def idleWith (s : State) (es : List Event) : State := { s with inputs := es }

/-- A machine with a data buffer of one word. -/
def oneWord : State := { State.reset with params := { dbufWords := 1, base := 0 } }

theorem witness_AddWrapsAndRotateMovesBitsUp : (0 < 1 ∧ 1 < 32 ∧ 0 < 32) ∧ 0 < 31 ∧ 31 < 32 := by decide

theorem witness_EncodeOfDecodeIsTheWord :
    decode 0x00000009 = .command .xor ∧ decode 0x00D87202 = .command (.qrw 2 7 8 13) ∧
    decode 0x00FFFF02 = .command (.qrw 15 15 15 15) := by decide

theorem witness_QrwIndicesAreTheFields :
    decode 0x00000002 = .command (.qrw 0 0 0 0) ∧ decode 0x00F12302 = .command (.qrw 3 2 1 15) := by decide

/-- An illegal word decodes to no command. -/
theorem no_command_of_illegal {c : Word} {why : IllegalWord} (h : decode c = .illegal why) : ∀ i, decode c ≠ .command i := by
  intro i hi
  rw [h] at hi
  cases hi

theorem witness_StrictDecodeAndItsError :
    (∀ i, decode (State.reset.accept 0x0000000A).pending ≠ .command i) ∧
    ∀ i, decode (State.reset.accept 0xFFFFFFFF).pending ≠ .command i :=
  ⟨no_command_of_illegal (why := .reservedOpcode) (by decide), no_command_of_illegal (why := .reservedBits) (by decide)⟩

theorem witness_RepeatedIndicesDecodeAndFail :
    ¬ [15, 15, 15, 15].Nodup ∧ ¬ [(1 : Fin 16), 2, 3, 1].Nodup := by decide

theorem witness_StepRunsTheDecodedCommand :
    ((busyWith (keyed nonceB) 8 [.sequencer]).busy = true ∧ (busyWith (keyed nonceB) 8 [.sequencer]).sequencerNext = true ∧
      decode (busyWith (keyed nonceB) 8 [.sequencer]).pending = .command .block) ∧
    (busyWith oneWord 9 []).busy = true ∧ (busyWith oneWord 9 []).sequencerNext = true ∧
      decode (busyWith oneWord 9 []).pending = .command .xor := by decide

theorem witness_IllegalWordCompletesWithItsError :
    ((busyWith State.reset 0x11 [.sequencer]).busy = true ∧ (busyWith State.reset 0x11 [.sequencer]).sequencerNext = true ∧
      ∀ i, decode (busyWith State.reset 0x11 [.sequencer]).pending ≠ .command i) ∧
    ((∀ i, decode 0x00000103 ≠ .command i) ∧ State.reset.busy = false) ∧
    (keyed nonceB).busy = false ∧ (keyed nonceB).ovr = false :=
  ⟨⟨rfl, rfl, no_command_of_illegal (why := .reservedBits) (by decide)⟩,
    ⟨no_command_of_illegal (why := .reservedIndexFields) (by decide), rfl⟩, rfl, rfl⟩

theorem witness_QuarterRoundInPlaceWritesFourPositions :
    [(15 : Fin 16), 0, 7, 3].Nodup ∧ (1 : Fin 16) ≠ 15 ∧ (1 : Fin 16) ≠ 0 ∧ (1 : Fin 16) ≠ 7 ∧ (1 : Fin 16) ≠ 3 := by decide

theorem witness_QrwActsInPlaceOrRefusesItsIndices :
    [(15 : Fin 16), 0, 7, 3].Nodup ∧ (1 : Fin 16) ∉ [(15 : Fin 16), 0, 7, 3] ∧ ¬ [(0 : Fin 16), 4, 8, 0].Nodup ∧
    ∃ s : State, s.regW =
      #v[0x879531e0, 0xc5ecf37d, 0x516461b1, 0xc9a62f8a, 0x44c20ef3, 0x3390af7f, 0xd9fc690b, 0x2a5f714c,
         0x53372767, 0xb00a5631, 0x974c541a, 0x359e9963, 0x5c971061, 0x3d631689, 0x2098d9d6, 0x91dbd320] :=
  ⟨by decide, by decide, by decide, ⟨{ State.reset with regW := _ }, rfl⟩⟩

theorem witness_InitWritesOnlyTheInitialState :
    { keyed nonceB with keyLen := 31 }.keyLen ≠ 32 ∧ { keyed nonceB with keyLen := 33 }.keyLen ≠ 32 ∧
    ((keyed nonceB).keyLen = 32 ∧ { keyed nonceB with nonceLen := 11 }.nonceLen ≠ 12) ∧
    (keyed nonceB).keyLen = 32 ∧ (keyed nonceB).nonceLen = 12 := by decide

theorem witness_InitialStateInvariantAndItsWriters :
    (∃ t, exec .init (keyed nonceB) = .next t ∧ t.err = .ok) ∧ (∃ t, exec .block (keyed nonceB) = .next t ∧ t.err = .ok) ∧
    (Instr.xor ≠ .init ∧ Instr.xor ≠ .block ∧ ∃ t, exec .xor (withData [1, 2]) = .next t) :=
  ⟨⟨_, rfl, rfl⟩, ⟨_, rfl, rfl⟩, by decide, by decide, ⟨_, rfl⟩⟩

theorem witness_MixAppliesTenDoubleRounds : (keyed nonceB).busy = false := by decide

theorem witness_AddbackAddsLaneByLane :
    (∃ s t : State, s.regS[(15 : Fin 16)] = 0xFFFFFFFF ∧ s.regW[(15 : Fin 16)] = 0x00000002 ∧ exec .addback s = .next t) ∧
    ∃ s : State, s.regS = stB ∧ s.regW = mixedB :=
  ⟨⟨{ State.reset with regS := Vector.replicate 16 0xFFFFFFFF, regW := Vector.replicate 16 2 }, _, by decide, by decide, rfl⟩,
    ⟨{ State.reset with regS := stB, regW := mixedB }, rfl, rfl⟩⟩

theorem witness_BlockComputesTheBlockFunction :
    { keyed nonceB with keyLen := 255 }.keyLen ≠ 32 ∧
    ((keyed nonceB).keyLen = 32 ∧ { keyed nonceB with nonceLen := 13 }.nonceLen ≠ 12) ∧
    ((keyed nonceB).keyLen = 32 ∧ (keyed nonceB).nonceLen = 12) ∧
    ∃ t t', exec .block (keyed nonceB) = .next t ∧ exec .block { keyed nonceB with regOut := stB } = .next t' ∧
      t.err = .ok ∧ t'.err = .ok :=
  ⟨by decide, by decide, by decide, ⟨_, _, rfl, rfl, rfl, rfl⟩⟩

theorem witness_SubCommandsComposeToBlock :
    (keyed nonceB).busy = false ∧ (keyed nonceB).keyLen = 32 ∧ (keyed nonceB).nonceLen = 12 := by decide

theorem witness_QuarterRoundsOfOneRoundCommute :
    columnSets.reverse.Perm columnSets ∧ diagonalSets.reverse.Perm diagonalSets :=
  ⟨List.reverse_perm _, List.reverse_perm _⟩

theorem witness_SerialisationIsTheLaneViewOfOut : { State.reset with regOut := outB }.busy = false := by decide

theorem witness_CipherXorsEachByteWithItsKeystreamByte :
    (List.replicate 65 (7 : Byte))[64]? = some 7 ∧ (List.replicate 65 (7 : Byte))[0]? = some 7 := by decide

theorem witness_XorChecksItsLengthsThenTransformsInPlace :
    { withData [1] with keyLen := 0 }.keyLen ≠ 32 ∧
    ((withData [1]).keyLen = 32 ∧ { withData [1] with nonceLen := 0 }.nonceLen ≠ 12) ∧
    (let s := { withData [1] with len := 4097 }
     s.keyLen = 32 ∧ s.nonceLen = 12 ∧ 4 * s.params.dbufWords < s.len.toNat) ∧
    (let s := { withData [1] with len := 4096 }
     s.keyLen = 32 ∧ s.nonceLen = 12 ∧ s.len.toNat ≤ 4 * s.params.dbufWords) ∧
    (let s := { withData [] with params := { dbufWords := 1, base := 0 } }
     s.keyLen = 32 ∧ s.nonceLen = 12 ∧ s.len.toNat ≤ 4 * s.params.dbufWords) := by decide

/-- The state of the worked example holds the example's bytes, at its parameters. -/
theorem witness_XorExample :
    (∀ i : Fin 32, (withData sunscreen).keyBytes[i] = BitVec.ofNat 8 i.val) ∧ (withData sunscreen).keyLen = 32 ∧
    (withData sunscreen).nonceBytes = #v[0, 0, 0, 0, 0, 0, 0, 0x4a, 0, 0, 0, 0] ∧ (withData sunscreen).nonceLen = 12 ∧
    (withData sunscreen).counter = 1 ∧ (withData sunscreen).len = 114 ∧ 114 ≤ 4 * (withData sunscreen).params.dbufWords ∧
    (∀ p : Fin 114, sunscreen[p.val]? = some ((withData sunscreen).memRead p.val)) ∧
    ∃ t, exec .xor (withData sunscreen) = .next t :=
  ⟨by decide +kernel, by decide +kernel, by decide +kernel, by decide +kernel, by decide +kernel, by decide +kernel,
    by decide +kernel, by decide +kernel, ⟨_, rfl⟩⟩

theorem witness_XorTwiceRestoresTheBuffer :
    let s := { withData [1, 2, 3] with len := 4096 }
    s.keyLen = 32 ∧ s.nonceLen = 12 ∧ s.len.toNat ≤ 4 * s.params.dbufWords := by decide

theorem witness_XorResultByteDependsOnlyOnItsInputs :
    let s := withData [1, 2, 3]
    let s' := { withData [1, 9, 9, 9] with regS := stB }
    s.keyBytes = s'.keyBytes ∧ s.nonceBytes = s'.nonceBytes ∧
    add32 s.counter (BitVec.ofNat 32 (0 / 64)) = add32 s'.counter (BitVec.ofNat 32 (0 / 64)) ∧
    s.memRead 0 = s'.memRead 0 ∧ 0 < s.len.toNat ∧ 0 < s'.len.toNat ∧
    ∃ t t', exec .xor s = .next t ∧ exec .xor s' = .next t' ∧ t.err = .ok ∧ t'.err = .ok :=
  ⟨rfl, rfl, rfl, by decide, by decide, by decide, ⟨_, _, rfl, rfl, rfl, rfl⟩⟩

theorem witness_BlockOrderOfXorIsNotObservable :
    let s := { withData [1, 2, 3] with len := 65 }
    s.dbufOk ∧ s.keyLen = 32 ∧ s.nonceLen = 12 ∧ s.len.toNat ≤ 4 * s.params.dbufWords ∧
    [1, 0].Perm (List.range ((s.len.toNat + 63) / 64)) := by decide

theorem witness_MessagesSplitAtBlockBoundaries :
    64 ∣ (List.replicate 64 (5 : Byte)).length ∧ 64 ∣ ([] : List Byte).length := by decide

theorem witness_NopOnlyCompletes :
    (∃ t, exec .nop (keyed nonceB) = .next t ∧ (keyed nonceB).ovr = false) ∧ { State.reset with err := .illegalIndex }.busy = false :=
  ⟨⟨_, rfl, rfl⟩, rfl⟩

/-- For each error a command that fails with it, and one that does not fail. -/
theorem witness_EveryCommandCompletesAndErrorsArePrecise :
    got (·.err) (sequencerStep (State.reset.accept 0x00000009)) = some .invalidKeyLength ∧
    (State.reset.busy = false ∧
      got (·.err) (runEvents [.host (.write 0x001 0x00000009 0), .sequencer] State.reset) = some .invalidKeyLength) ∧
    got (·.err) (runEvents [.host (.write 0x001 0x00000000 0), .sequencer] State.reset) = some .ok := by decide

/-- A state for each line of the code's definition. -/
theorem witness_CompletionCodeIsTheFirstErrorThatApplies :
    got (·.err) (sequencerStep ({ State.reset with len := 9000 }.accept 0x00FFFF0A)) = some .illegalCommand ∧
    got (·.err) (sequencerStep (State.reset.accept 0x00FFFF02)) = some .illegalIndex ∧
    got (·.err) (sequencerStep ({ State.reset with len := 9000 }.accept 0x00000009)) = some .invalidKeyLength ∧
    got (·.err) (sequencerStep ({ State.reset with keyLen := 32, len := 9000 }.accept 0x00000009)) =
      some .invalidNonceLength ∧
    got (·.err) (sequencerStep ({ keyed nonceB with len := 4097 }.accept 0x00000009)) = some .invalidDataLength ∧
    got (·.err) (sequencerStep ((keyed nonceB).accept 0x00000009)) = some .ok := by decide

/-- A command that does not store, and bytes inside and outside XOR's range. -/
theorem witness_CommandsWriteOnlyTheirResultRegisters :
    (∃ t, exec .mix (keyed nonceB) = .next t) ∧ (∃ t, exec .xor (withData [1, 2, 3]) = .next t) ∧
    (withData [1, 2, 3]).len.toNat ≤ 3 ∧ (∃ t, exec .qr State.reset = .next t) ∧
    (∃ t, exec (.qrw 0 0 0 0) State.reset = .next t) ∧ ∃ t, exec .addback (keyed nonceB) = .next t :=
  ⟨⟨_, rfl⟩, ⟨_, rfl⟩, by decide, ⟨_, rfl⟩, ⟨_, rfl⟩, ⟨_, rfl⟩⟩

theorem witness_RegisterMapOfTheWindow :
    (oneWord.params.wf = true ∧ 0 < oneWord.params.dbufWords ∧ 0x400 + oneWord.params.dbufWords ≤ (0x401 : BitVec 11).toNat) ∧
    State.reset.params.wf = true ∧ 1023 < State.reset.params.dbufWords := by decide

/-- The ends of each reserved range, and which registers stand beside them. -/
theorem witness_register_map_edges :
    regAt oneWord.params 0x013 = .unmapped ∧ regAt oneWord.params 0x012 = .nonce 2 ∧ regAt oneWord.params 0x017 = .qd ∧
    regAt oneWord.params 0x018 = .unmapped ∧ regAt oneWord.params 0x01F = .unmapped ∧ regAt oneWord.params 0x020 = .s 0 ∧
    regAt oneWord.params 0x04F = .out 15 ∧ regAt oneWord.params 0x050 = .unmapped ∧ regAt oneWord.params 0x3FF = .unmapped ∧
    regAt oneWord.params 0x400 = .dbuf 0 ∧ regAt oneWord.params 0x401 = .unmapped ∧ regAt oneWord.params 0x7FF = .unmapped ∧
    regAt State.reset.params 0x7FF = .dbuf 1023 := by decide

theorem witness_ReadsReturnWhatTheRuleSays :
    (State.reset.busy = false ∧ State.reset.params.wf = true ∧ 1023 < State.reset.params.dbufWords ∧
      oneWord.busy = false ∧ 0x400 + oneWord.params.dbufWords ≤ (0x401 : BitVec 11).toNat) ∧
    ((busyWith State.reset 0 []).busy = true ∧ 4 ≤ (0x004 : BitVec 11).toNat ∧ 4 ≤ (0x7FF : BitVec 11).toNat) ∧
    (idleWith State.reset [.host (.read 0x003)]).inputs = [.host (.read 0x003)] ∧
    (busyWith State.reset 0 [.host (.read 0x004)]).inputs = [.host (.read 0x004)] := by decide

theorem witness_WritesActAsTheRuleSays :
    (State.reset.busy = false ∧ State.reset.params.wf = true ∧ 1023 < State.reset.params.dbufWords ∧
      oneWord.busy = false ∧ oneWord.params.wf = true ∧ 0 < oneWord.params.dbufWords ∧
      0x400 + oneWord.params.dbufWords ≤ (0x401 : BitVec 11).toNat) ∧
    ((busyWith State.reset 0 []).busy = true ∧ (0x001 : BitVec 11) ≠ 0x002 ∧ (0x001 : BitVec 11) ≠ 0x003 ∧
      (0x004 : BitVec 11) ≠ 0x002 ∧ (0x004 : BitVec 11) ≠ 0x003) ∧
    (idleWith State.reset [.host (.write 0x7FF 1 0b1111)]).inputs = [.host (.write 0x7FF 1 0b1111)] := by decide

theorem witness_NoRegisterAliasesAnother :
    (State.reset.params.wf = true ∧ State.reset.busy = false ∧ (0x020 : BitVec 11) ≠ 0x001 ∧ (0x020 : BitVec 11) ≠ 0x030) ∧
    oneWord.params.wf = true ∧ oneWord.busy = false ∧ (0x400 : BitVec 11) ≠ 0x001 ∧ (0x400 : BitVec 11) ≠ 0x401 := by decide

theorem witness_LoadingKeyAndNonceStoresTheirBytes : State.reset.busy = false := by decide

theorem witness_LoadingTheBufferStoresItsBytes :
    (oneWord.params.wf = true ∧ oneWord.busy = false ∧ [1, 2, 3, 4].length ≤ 4 * oneWord.params.dbufWords) ∧
    State.reset.params.wf = true ∧ State.reset.busy = false ∧ sunscreen.length ≤ 4 * State.reset.params.dbufWords := by
  decide +kernel

theorem witness_WritingCmdWhileIdleAcceptsTheCommand :
    (∃ s : State, s.busy = false ∧ s.inputs = [.host (.write 0x001 9 0)]) ∧
    ∃ s t : State, s.busy = true ∧ s.inputs = [.host (.write 0x003 1 0)] ∧ step s = .next t :=
  ⟨⟨idleWith State.reset [.host (.write 0x001 9 0)], rfl, rfl⟩, ⟨busyWith State.reset 9 [.host (.write 0x003 1 0)], _, rfl, rfl, rfl⟩⟩

theorem witness_OvrRecordsLostWritesUntilAcknowledged :
    (∃ s : State, s.inputs = [.host (.write 0x001 0 0)] ∧ s.busy = true) ∧
    (∃ s t : State, step s = .next t ∧ s.ovr = false ∧ t.ovr = true) ∧
    (∃ s t : State, step s = .next t ∧ s.ovr = true ∧ t.ovr = false ∧ s.inputs = [.host (.write 0x002 0x100 0)]) ∧
    ∃ s t : State, step s = .next t ∧ s.ovr = true ∧ t.ovr = false ∧ s.inputs = [.reset] :=
  ⟨⟨busyWith State.reset 0 [.host (.write 0x001 0 0)], rfl, rfl⟩,
    ⟨busyWith State.reset 0 [.host (.write 0x001 0 0)], _, rfl, rfl, rfl⟩,
    ⟨idleWith { State.reset with ovr := true } [.host (.write 0x002 0x100 0)], _, rfl, rfl, rfl, rfl⟩,
    ⟨idleWith { State.reset with ovr := true } [.reset], _, rfl, rfl, rfl, rfl⟩⟩

theorem witness_DoneIsSetByCompletionsAndClearedByTheHost :
    (∃ s t : State, step s = .next t ∧ s.done = false ∧ t.done = true) ∧
    (∃ s t : State, step s = .next t ∧ s.done = true ∧ t.done = false ∧ s.inputs = [.host (.write 0x002 2 0)]) ∧
    (∃ s t : State, step s = .next t ∧ s.done = true ∧ t.done = false ∧ s.inputs = [.host (.write 0x001 0 0)]) ∧
    ∃ s t : State, step s = .next t ∧ s.done = true ∧ t.done = false ∧ s.inputs = [.reset] :=
  ⟨⟨busyWith State.reset 0 [], _, rfl, rfl, rfl⟩,
    ⟨idleWith { State.reset with done := true } [.host (.write 0x002 2 0)], _, rfl, rfl, rfl, rfl⟩,
    ⟨idleWith { State.reset with done := true } [.host (.write 0x001 0 0)], _, rfl, rfl, rfl, rfl⟩,
    ⟨idleWith { State.reset with done := true } [.reset], _, rfl, rfl, rfl, rfl⟩⟩

theorem witness_InterruptLineFollowsDoneAndItsEnable :
    (∃ s t : State, s.busy = true ∧ s.sequencerNext = true ∧ s.doneIe = true ∧ step s = .next t) ∧
    (∃ s t : State, s.irq = true ∧ s.inputs = [.host (.write 0x002 2 0)] ∧ step s = .next t) ∧
    ∃ s t : State, s.irq = true ∧ s.inputs = [.host (.write 0x003 0 0)] ∧ step s = .next t :=
  ⟨⟨busyWith { State.reset with doneIe := true } 0 [.sequencer], _, rfl, rfl, rfl, rfl⟩,
    ⟨idleWith { State.reset with done := true, doneIe := true } [.host (.write 0x002 2 0)], _, rfl, rfl, rfl⟩,
    ⟨idleWith { State.reset with done := true, doneIe := true } [.host (.write 0x003 0 0)], _, rfl, rfl, rfl⟩⟩

theorem witness_ResetAbortsAndRestoresEveryRegister :
    (busyWith (withData [1, 2]) 9 [.reset]).inputs = [.reset] ∧ (idleWith (keyed nonceB) [.reset]).inputs = [.reset] := by decide

theorem witness_BusyFallsOnlyByCompletionOrReset :
    (∃ s t : State, step s = .next t ∧ s.busy = true ∧ t.busy = false ∧ s.inputs = [.sequencer]) ∧
    ∃ s t : State, step s = .next t ∧ s.busy = true ∧ t.busy = false ∧ s.inputs = [.reset] :=
  ⟨⟨busyWith State.reset 0 [.sequencer], _, rfl, rfl, rfl, rfl⟩, ⟨busyWith State.reset 0 [.reset], _, rfl, rfl, rfl, rfl⟩⟩

theorem witness_EveryAcceptedCommandCompletes :
    let s := busyWith (keyed nonceB) 8 [.host (.read 0x002), .host (.write 0x001 0 0)]
    s.busy = true ∧ Event.reset ∉ s.inputs := by decide

theorem witness_WaitEndsWhenTheCommandCompletes : (busyWith (keyed nonceB) 8 []).busy = true := by decide

theorem witness_PendingIsUnusedWhileIdle :
    (idleWith State.reset [.host (.write 0x001 9 0)]).busy = false ∧ (idleWith State.reset []).busy = false := by decide

/-- The invariant holds in states other than reset's: busy, and idle after an error. -/
theorem witness_EveryStepKeepsTheInvariant :
    (∃ s t : State, s.Inv ∧ step s = .next t ∧ s.busy = true ∧ s.dbuf ≠ []) ∧
    ∃ s t : State, s.Inv ∧ step s = .next t ∧ s.busy = false ∧ s.err = .illegalIndex :=
  ⟨⟨busyWith (withData [1, 2, 3]) 9 [.sequencer], _, by decide +kernel, rfl, rfl, by decide⟩,
    ⟨{ idleWith State.reset [.host (.write 0x400 1 1)] with err := .illegalIndex, cmd := 0x00111102 }, _, by decide +kernel,
      rfl, rfl, rfl⟩⟩

end Sys2Proof.Tests
end

section
/-! PROOFS. Word arithmetic and byte order (spec/00_scope.md R9 to R11): rotation and `le32` as numbers and bit by bit. -/

namespace Sys2Proof.Machine

/-! ## Rotation -/

/-- R10 over the naturals. -/
theorem toNat_rotl32 (v : Word) (n : Nat) :
    (rotl32 v n).toNat = (v.toNat * 2 ^ n ||| v.toNat / 2 ^ (32 - n)) % 2 ^ 32 := by
  have low : v.toNat / 2 ^ (32 - n) < 2 ^ 32 := (Nat.div_le_self ..).trans_lt v.isLt
  rw [rotl32, BitVec.toNat_or, BitVec.toNat_shiftLeft, BitVec.toNat_ushiftRight, Nat.shiftLeft_eq,
    Nat.shiftRight_eq_div_pow, Nat.or_mod_two_pow, Nat.mod_eq_of_lt low]

/-- A rotation by n moves every bit n places up, around the top. -/
theorem getLsbD_rotl32_eq_mod (v : Word) (n i : Nat) (hn : n < 32) (hi : i < 32) :
    (rotl32 v n).getLsbD i = v.getLsbD ((i + 32 - n) % 32) := by
  rw [getLsbD_rotl32 v n i hn hi]
  split_ifs with h
  · rw [show (i + 32 - n) % 32 = 32 - n + i by omega]
  · rw [show (i + 32 - n) % 32 = i - n by omega]

/-! ## Byte order -/

/-- A concatenation's value: its high part weighs 2^n above an n-bit low part. -/
theorem toNat_append_eq_add {m n : Nat} (x : BitVec m) (y : BitVec n) :
    (x ++ y).toNat = 2 ^ n * x.toNat + y.toNat := by
  rw [BitVec.toNat_append, Nat.shiftLeft_eq, Nat.mul_comm, Nat.two_pow_add_eq_or_of_lt y.isLt]

/-- `le32` is the concatenation of its bytes, the first at the low end. -/
theorem le32_eq_append (b0 b1 b2 b3 : Byte) : le32 b0 b1 b2 b3 = b3 ++ b2 ++ b1 ++ b0 := by
  apply BitVec.eq_of_getLsbD_eq
  intro i _
  have second : i - 8 < 8 ↔ i < 16 := by omega
  have third : i - (8 + 8) < 8 ↔ i < 24 := by omega
  simp only [getLsbD_le32, BitVec.getLsbD_append, Nat.sub_sub, second, third]

/-- Byte j of a little-endian word weighs 256^j (R11). -/
theorem toNat_le32 (b0 b1 b2 b3 : Byte) :
    (le32 b0 b1 b2 b3).toNat = b0.toNat + 256 * b1.toNat + 65536 * b2.toNat + 16777216 * b3.toNat := by
  rw [le32_eq_append, toNat_append_eq_add, toNat_append_eq_add, toNat_append_eq_add]
  omega

theorem bytesLe_le32 (b0 b1 b2 b3 : Byte) : bytesLe (le32 b0 b1 b2 b3) = [b0, b1, b2, b3] := by
  rw [bytesLe, byteLane_le32_zero, byteLane_le32_one, byteLane_le32_two, byteLane_le32_three]

/-- A word is the `le32` of its own lanes (R11). -/
theorem le32_byteLane (w : Word) : le32 (byteLane w 0) (byteLane w 1) (byteLane w 2) (byteLane w 3) = w := by
  apply BitVec.eq_of_getLsbD_eq
  intro i hi
  simp only [getLsbD_le32, getLsbD_byteLane]
  split_ifs with h1
  · simp [h1]
  · simp [show i - 8 < 8 by omega, show 8 + (i - 8) = i by omega]
  · simp [show i - 16 < 8 by omega, show 16 + (i - 16) = i by omega]
  · simp [show i - 24 < 8 by omega, show 24 + (i - 24) = i by omega]

/-! ## The obligations -/

/-- Settles O2, from the weights of `le32` and the two inversions between words and their lanes. -/
theorem littleEndianConversionsAreInverse : Obligations.LittleEndianConversionsAreInverse :=
  ⟨fun b0 b1 b2 b3 => ⟨toNat_le32 b0 b1 b2 b3, bytesLe_le32 b0 b1 b2 b3⟩, fun w => ⟨rfl, le32_byteLane w⟩⟩

/-- Settles O1, from the value of a rotated word and from its bits. -/
theorem addWrapsAndRotateMovesBitsUp : Obligations.AddWrapsAndRotateMovesBitsUp :=
  ⟨fun a b => BitVec.toNat_add a b,
    fun v n _ hn => ⟨toNat_rotl32 v n, fun i hi => getLsbD_rotl32_eq_mod v n i hn hi⟩⟩

end Sys2Proof.Machine
end

section
/-! PROOFS. What a command's completion may write (spec/20_memory.md R214), whatever the values: the frames of the commands
(spec/10_state.md R103 to R113) do not depend on them. -/

namespace Sys2Proof.Machine

/-! ## The cipher keeps the length (R471) -/

/-- The first n chunks hold 64 bytes each, as far as the data reach. -/
theorem flatMap_chunkOut_length (k : Vector Byte 32) (c0 : Word) (nonce : Vector Byte 12) (d : List Byte) (n : Nat) :
    ((List.range n).flatMap (chunkOut k c0 nonce d)).length = min (64 * n) d.length := by
  induction n with
  | zero => simp
  | succ n ih =>
    rw [List.range_succ, List.flatMap_append, List.length_append, ih, List.flatMap_singleton, chunkOut_length]
    omega

@[simp] theorem chachaF_length (k : Vector Byte 32) (c0 : Word) (n : Vector Byte 12) (d : List Byte) :
    (chachaF k c0 n d).length = d.length := by
  rw [chachaF, flatMap_chunkOut_length, chunkCount]
  omega

/-! ## Where a command's writes go -/

/-- The registers `Wrote` allows each command to write, whatever it writes there. XOR writes LEN bytes, which fit in DBUF. -/
inductive WroteTo (s : State) : Instr → State → Prop where
  | nop : WroteTo s .nop s
  | qr (q : Word × Word × Word × Word) : WroteTo s .qr (s.setQ q)
  | qrw (x y z w : Fin 16) (v : Words16) : WroteTo s (.qrw x y z w) (s.setW v)
  | init (v : Words16) : WroteTo s .init (s.setS v)
  | copy (v : Words16) : WroteTo s .copy (s.setW v)
  | dround (v : Words16) : WroteTo s .dround (s.setW v)
  | mix (v : Words16) : WroteTo s .mix (s.setW v)
  | addback (v : Words16) : WroteTo s .addback (s.setOut v)
  | block (v0 v1 v2 : Words16) : WroteTo s .block (((s.setS v0).setW v1).setOut v2)
  | xor (bs : List Byte) (length_eq : bs.length = s.len.toNat) (fits : s.len.toNat ≤ s.dbufBytes) :
      WroteTo s .xor (s.memWriteFrom 0 bs)

section
variable {i : Instr} {s u : State}

theorem Wrote.wroteTo (h : Wrote i s u) : WroteTo s i u := by
  cases i with
  | nop => cases h; exact .nop
  | qr => cases h; exact .qr _
  | qrw x y z w => obtain ⟨-, rfl⟩ := h; exact .qrw x y z w _
  | init => obtain ⟨-, -, rfl⟩ := h; exact .init _
  | copy => cases h; exact .copy _
  | dround => cases h; exact .dround _
  | mix => cases h; exact .mix _
  | addback => cases h; exact .addback _
  | block => obtain ⟨-, -, rfl⟩ := h; exact .block ..
  | xor => obtain ⟨-, -, fits, rfl⟩ := h; exact .xor _ (by simp) fits

/-- The writes of a command reach only the result registers and DBUF. -/
theorem WroteTo.eq_with_results (h : WroteTo s i u) :
    u = { s with
      qa := u.qa, qb := u.qb, qc := u.qc, qd := u.qd
      regS := u.regS, regW := u.regW, regOut := u.regOut, dbuf := u.dbuf } := by
  cases h <;> rfl

/-- Only QR writes QA..QD (R109). -/
theorem WroteTo.quarters_eq (h : WroteTo s i u) (hi : i ≠ .qr) :
    u.qa = s.qa ∧ u.qb = s.qb ∧ u.qc = s.qc ∧ u.qd = s.qd := by
  cases h with
  | qr => exact absurd rfl hi
  | _ => exact ⟨rfl, rfl, rfl, rfl⟩

/-- Only INIT and BLOCK write S (R110, R423). -/
theorem WroteTo.regS_eq (h : WroteTo s i u) (hinit : i ≠ .init) (hblock : i ≠ .block) : u.regS = s.regS := by
  cases h with
  | init => exact absurd rfl hinit
  | block => exact absurd rfl hblock
  | _ => rfl

/-- Only QRW, COPY, DROUND, MIX and BLOCK write W (R111). -/
theorem WroteTo.regW_eq (h : WroteTo s i u) (hqrw : ∀ x y z w, i ≠ .qrw x y z w) (hcopy : i ≠ .copy)
    (hdround : i ≠ .dround) (hmix : i ≠ .mix) (hblock : i ≠ .block) : u.regW = s.regW := by
  cases h with
  | qrw x y z w => exact absurd rfl (hqrw x y z w)
  | copy => exact absurd rfl hcopy
  | dround => exact absurd rfl hdround
  | mix => exact absurd rfl hmix
  | block => exact absurd rfl hblock
  | _ => rfl

/-- Only ADDBACK and BLOCK write OUT (R112). -/
theorem WroteTo.regOut_eq (h : WroteTo s i u) (haddback : i ≠ .addback) (hblock : i ≠ .block) : u.regOut = s.regOut := by
  cases h with
  | addback => exact absurd rfl haddback
  | block => exact absurd rfl hblock
  | _ => rfl

/-- A byte of DBUF reads as before, unless the command is XOR and the byte is below LEN (R474). -/
theorem WroteTo.memRead_eq (h : WroteTo s i u) (a : Nat) (ha : i ≠ .xor ∨ s.len.toNat ≤ a) :
    u.memRead a = s.memRead a := by
  cases h with
  | xor bs length_eq _ =>
    have beyond : ¬ (0 ≤ a ∧ a < 0 + bs.length) := by
      have := ha.resolve_left (absurd rfl)
      omega
    rw [State.memRead, State.memWriteFrom_dbuf, Memory.read_writeFrom, if_neg beyond, State.memWriteFrom_dbufEpoch,
      State.memRead]
  | _ => rfl

/-- A command keeps DBUF canonical and inside its bounds (R113, R473). -/
theorem WroteTo.dbufOk (h : WroteTo s i u) (hs : s.dbufOk) : u.dbufOk := by
  cases h with
  | xor bs length_eq fits =>
    obtain ⟨canonical, bounded⟩ := hs
    refine ⟨Memory.wf_writeFrom bs 0 s.dbuf canonical, fun c hc => ?_⟩
    rcases Memory.mem_writeFrom bs 0 s.dbuf c hc with hc | ⟨-, hc⟩
    · exact bounded c hc
    · exact hc.trans_le (by rw [Nat.zero_add, length_eq]; exact fits)
  | _ => exact hs

end

/-! ## The frame of a completion -/

/-- Whatever a command does, its completion changes nothing but the result registers, DBUF, BUSY, DONE and ERR. -/
theorem exec_next_eq_with_results {i : Instr} {s t : State} (h : exec i s = .next t) :
    t = { s with
      qa := t.qa, qb := t.qb, qc := t.qc, qd := t.qd, regS := t.regS, regW := t.regW, regOut := t.regOut, dbuf := t.dbuf
      busy := false, done := true, err := t.err } := by
  rcases exec_next_cases h with ⟨u, hu, rfl⟩ | ⟨e, -, rfl⟩
  · exact congrArg (State.finish .ok) hu.wroteTo.eq_with_results
  · rfl

/-- Settles O40: a failed command writes none of these, and a successful one only its results. -/
theorem commandsWriteOnlyTheirResultRegisters : Obligations.CommandsWriteOnlyTheirResultRegisters := by
  intro i s t h
  have frame := exec_next_eq_with_results h
  rcases exec_next_cases h with ⟨u, hu, rfl⟩ | ⟨e, -, rfl⟩
  · have hu := hu.wroteTo
    refine ⟨?operands, ?control, hu.quarters_eq, hu.regS_eq, hu.regW_eq, hu.regOut_eq, hu.memRead_eq, ?model⟩
    case operands => rw [frame]; exact ⟨rfl, rfl, rfl, rfl, rfl, rfl⟩
    case control => rw [frame]; exact ⟨rfl, rfl, rfl, rfl⟩
    case model => rw [frame]; exact ⟨rfl, rfl, rfl, rfl⟩
  · simp [State.memRead]

end Sys2Proof.Machine
end

section
/-! PROOFS. One step of the machine, by what stands first in `inputs` (spec/60_exceptions.md R609), and what an idle step
makes of `pending` (spec/10_state.md R119). -/

namespace Sys2Proof.Machine

/-! ## A step by the first entry of `inputs` -/

theorem State.sequencerNext_iff (s : State) :
    s.sequencerNext = true ↔ s.inputs = [] ∨ ∃ rest, s.inputs = .sequencer :: rest := by
  unfold State.sequencerNext
  split <;> simp [*]

/-- What a step serves: the sequencer, a host transaction, or reset (R609). -/
theorem State.inputs_cases (s : State) :
    s.sequencerNext = true ∨ (∃ tr rest, s.inputs = .host tr :: rest) ∨ ∃ rest, s.inputs = .reset :: rest := by
  rw [s.sequencerNext_iff]
  rcases s.inputs with _ | ⟨_ | _ | _, _⟩ <;> simp

/-- A running command completes when the sequencer moves (R214). -/
theorem step_of_sequencerNext {s : State} (hb : s.busy = true) (hn : s.sequencerNext = true) :
    step s = sequencerStep s.popInput := by
  obtain h | ⟨rest, h⟩ := s.sequencerNext_iff.mp hn
  · simp [step, h, hb, s.popInput_of_nil h]
  · simp [step, h, hb]

/-- Nothing happens when the sequencer moves in an idle core (R616). -/
theorem step_of_sequencerNext_idle {s : State} (hb : s.busy = false) (hn : s.sequencerNext = true) :
    step s = .next s.popInput := by
  obtain h | ⟨rest, h⟩ := s.sequencerNext_iff.mp hn
  · simp [step, h, hb, s.popInput_of_nil h]
  · simp [step, h, hb]

theorem step_of_host {s : State} {tr : Transaction} {rest : List Event} (h : s.inputs = .host tr :: rest) :
    step s = .next (hostTransaction tr s.popInput) := by
  rw [step, h]

theorem step_of_reset {s : State} {rest : List Event} (h : s.inputs = .reset :: rest) :
    step s = .next s.popInput.resetCore := by
  rw [step, h]

/-- Settles O10: the sequencer's step decodes the pending word and is `exec` of what it finds. -/
theorem stepRunsTheDecodedCommand : Obligations.StepRunsTheDecodedCommand := by
  intro s i hb hn hd
  rw [step_of_sequencerNext hb hn, sequencerStep, State.popInput_pending, hd]
  rfl

/-! ## The idle core does not read `pending` -/

/-- The same state with another word in `pending`. -/
def State.setPending (c : Word) (s : State) : State := { s with pending := c }

section
variable (s : State) (c : Word)

@[simp] theorem State.setPending_busy : (s.setPending c).busy = s.busy := rfl
@[simp] theorem State.setPending_draws : (s.setPending c).draws = s.draws := rfl
@[simp] theorem State.setPending_regAt (A : BitVec 11) : (s.setPending c).regAt A = s.regAt A := rfl
@[simp] theorem State.setPending_readIsOpen (A : BitVec 11) : (s.setPending c).readIsOpen A = s.readIsOpen A := rfl

theorem State.popInput_setPending : (s.setPending c).popInput = s.popInput.setPending c := rfl

@[simp] theorem State.busRead_setPending (A : BitVec 11) : (s.setPending c).busRead A = s.busRead A := by
  have readReg (r : Reg) : (s.setPending c).readReg r = s.readReg r := by cases r <;> rfl
  simp [State.busRead, readReg]

theorem State.hostRead_setPending (A : BitVec 11) : (s.setPending c).hostRead A = (s.hostRead A).setPending c := by
  simp only [State.hostRead_eq, State.busRead_setPending, State.setPending_readIsOpen]
  rfl

/-- Acceptance overwrites `pending`. -/
theorem State.accept_setPending (d : Word) : (s.setPending c).accept d = s.accept d := rfl

/-- Writing any register but CMD carries `pending` along. -/
theorem State.writeReg_setPending {r : Reg} (hr : r ≠ .cmd) (d : Word) (be : BitVec 4) :
    (s.setPending c).writeReg r d be = (s.writeReg r d be).setPending c := by
  cases r with
  | cmd => exact absurd rfl hr
  | _ => rfl

end

theorem State.busWrite_of_idle {s : State} (hb : s.busy = false) (A : BitVec 11) (d : Word) (be : BitVec 4) :
    s.busWrite A d be = s.writeReg (s.regAt A) d be := by
  simp [State.busWrite, State.writeIsLost, hb]

/-- A host transaction with an idle core leaves it idle and carries `pending` along, or accepts a command over it. -/
theorem hostTransaction_setPending {s : State} (hb : s.busy = false) (tr : Transaction) (c : Word) :
    (hostTransaction tr s).busy = false ∧
      hostTransaction tr (s.setPending c) = (hostTransaction tr s).setPending c ∨
    hostTransaction tr (s.setPending c) = hostTransaction tr s := by
  cases tr with
  | read A =>
    refine .inl ⟨?_, s.hostRead_setPending c A⟩
    simpa [hostTransaction, State.hostRead_eq] using hb
  | write A d be =>
    rw [hostTransaction, hostTransaction, State.busWrite_of_idle hb, State.busWrite_of_idle (s := s.setPending c) hb,
      State.setPending_regAt]
    by_cases hr : s.regAt A = .cmd
    · right
      rw [hr]
      exact s.accept_setPending c d
    · exact .inl ⟨(s.writeReg_keeps_command _ d be hr).1.trans hb, s.writeReg_setPending c hr d be⟩

/-- An idle step carries `pending` along and stays idle, or it does not depend on `pending` at all. -/
theorem step_setPending {s : State} (hb : s.busy = false) (c : Word) :
    ∃ t, step s = .next t ∧
      (t.busy = false ∧ step (s.setPending c) = .next (t.setPending c) ∨ step (s.setPending c) = .next t) := by
  rcases s.inputs_cases with hn | ⟨tr, rest, h⟩ | ⟨rest, h⟩
  · exact ⟨_, step_of_sequencerNext_idle hb hn, .inl ⟨hb, step_of_sequencerNext_idle (s := s.setPending c) hb hn⟩⟩
  · refine ⟨_, step_of_host h, ?_⟩
    rw [step_of_host (s := s.setPending c) h, State.popInput_setPending]
    exact (hostTransaction_setPending (s := s.popInput) hb tr c).imp (And.imp_right (congrArg _)) (congrArg _)
  · exact ⟨_, step_of_reset h, .inr (step_of_reset (s := s.setPending c) h)⟩

/-- Settles O57: an idle step carries `pending` along or drops it, and the step that accepts a command drops it. -/
theorem pendingIsUnusedWhileIdle : Obligations.PendingIsUnusedWhileIdle := by
  intro s c hb
  obtain ⟨t, ht, ⟨idle, ht'⟩ | ht'⟩ := step_setPending hb c
  · exact ⟨t, t.setPending c, ht, ht', rfl, fun busy => absurd (idle.symm.trans busy) (by decide)⟩
  · exact ⟨t, t, ht, ht', rfl, fun _ => rfl⟩

end Sys2Proof.Machine
end

section
/-! PROOFS. OVR (spec/10_state.md R117): which writes set it, what clears it, and that no command has to do with it. -/

namespace Sys2Proof.Machine

/-! ## A command's outcome decides its completion: `exec_outcome` read backwards -/

theorem exec_of_wrote {i : Instr} {s u : State} (h : Wrote i s u) : exec i s = complete u := by
  cases i with
  | nop | qr | copy | dround | mix | addback => cases h; rfl
  | qrw x y z w =>
    obtain ⟨distinct, rfl⟩ := h
    rw [exec, execQrw, if_pos ((pairwiseDistinct_iff x y z w).mpr distinct)]
  | init =>
    obtain ⟨hk, hn, rfl⟩ := h
    have passed : s.lengthError = none := by simp [State.lengthError, hk, hn]
    rw [exec, execInit, passed]
  | block =>
    obtain ⟨hk, hn, rfl⟩ := h
    have passed : s.lengthError = none := by simp [State.lengthError, hk, hn]
    rw [exec, execBlock, passed]
  | xor =>
    obtain ⟨hk, hn, hl, rfl⟩ := h
    have passed : s.lengthError = none := by simp [State.lengthError, hk, hn]
    have fits : s.dataLengthError = none := if_neg hl.not_gt
    rw [exec, execXor, passed, fits]

theorem exec_of_failed {i : Instr} {s : State} {e : ErrCode} (h : Failed i s e) : exec i s = raise e s := by
  cases e with
  | ok | illegalCommand => exact absurd h id
  | illegalIndex =>
    obtain ⟨x, y, z, w, rfl, repeated⟩ := h
    rw [exec, execQrw, if_neg (mt (pairwiseDistinct_iff x y z w).mp repeated)]
  | invalidKeyLength =>
    obtain ⟨hi, hk⟩ := h
    have error : s.lengthError = some .invalidKeyLength := if_pos hk
    obtain rfl | rfl | rfl := hi <;> simp only [exec, execInit, execBlock, execXor, error]
  | invalidNonceLength =>
    obtain ⟨hi, hk, hn⟩ := h
    have error : s.lengthError = some .invalidNonceLength := by rw [State.lengthError, if_neg (not_not.mpr hk), if_pos hn]
    obtain rfl | rfl | rfl := hi <;> simp only [exec, execInit, execBlock, execXor, error]
  | invalidDataLength =>
    obtain ⟨rfl, hk, hn, hl⟩ := h
    have passed : s.lengthError = none := by simp [State.lengthError, hk, hn]
    have error : s.dataLengthError = some .invalidDataLength := if_pos hl
    simp only [exec, execXor, passed, error]

/-! ## No command has to do with OVR -/

/-- The same state with OVR at a given value. -/
def State.setOvr (v : Bool) (s : State) : State := { s with ovr := v }

theorem Wrote.setOvr {i : Instr} {s u : State} (h : Wrote i s u) (v : Bool) : Wrote i (s.setOvr v) (u.setOvr v) := by
  cases i with
  | nop | qr | copy | dround | mix | addback => cases h; rfl
  | qrw x y z w => obtain ⟨distinct, rfl⟩ := h; exact ⟨distinct, rfl⟩
  | init | block => obtain ⟨hk, hn, rfl⟩ := h; exact ⟨hk, hn, rfl⟩
  | xor => obtain ⟨hk, hn, hl, rfl⟩ := h; exact ⟨hk, hn, hl, rfl⟩

theorem Failed.setOvr {i : Instr} {s : State} {e : ErrCode} (h : Failed i s e) (v : Bool) : Failed i (s.setOvr v) e := by
  cases e <;> exact h

/-- A command neither changes OVR nor depends on it (R117). -/
theorem exec_setOvr (i : Instr) (s : State) (v : Bool) :
    ∃ t, exec i s = .next t ∧ t.ovr = s.ovr ∧ exec i (s.setOvr v) = .next (t.setOvr v) := by
  rcases exec_outcome i s with ⟨u, hu, hx⟩ | ⟨e, he, hx⟩
  · exact ⟨u.finish .ok, hx, by rw [hu.wroteTo.eq_with_results]; rfl, exec_of_wrote (hu.setOvr v)⟩
  · exact ⟨s.finish e, hx, rfl, exec_of_failed (he.setOvr v)⟩

theorem sequencerStep_ovr {s t : State} (h : sequencerStep s = .next t) : t.ovr = s.ovr := by
  rcases sequencerStep_cases s with ⟨i, -, hx⟩ | ⟨why, -, hx⟩
  · rw [exec_next_eq_with_results (hx.symm.trans h)]
  · rw [raise_eq_next.mp (hx.symm.trans h), State.finish_ovr]

/-! ## OVR after a step -/

theorem step_ovr_of_sequencerNext {s t : State} (hn : s.sequencerNext = true) (h : step s = .next t) : t.ovr = s.ovr := by
  cases hb : s.busy with
  | true => exact sequencerStep_ovr (s := s.popInput) ((step_of_sequencerNext hb hn).symm.trans h)
  | false =>
    injection (step_of_sequencerNext_idle hb hn).symm.trans h with h
    rw [← h, State.popInput_ovr]

/-- A lost write changes nothing but OVR (R117, R206). -/
theorem State.busWrite_of_lost {s : State} {A : BitVec 11} (hb : s.busy = true) (h2 : A ≠ 2#11) (h3 : A ≠ 3#11)
    (d : Word) (be : BitVec 4) : s.busWrite A d be = s.flagOvr :=
  if_pos ((s.writeIsLost_iff A).mpr ⟨hb, h2, h3⟩)

/-- A write of STATUS is taken whether or not the core is busy (R116, R206). -/
theorem State.busWrite_status (s : State) (d : Word) (be : BitVec 4) : s.busWrite 2#11 d be = s.ackStatus d := by
  have kept : ¬ s.writeIsLost 2#11 = true := fun h => ((s.writeIsLost_iff 2#11).mp h).2.1 rfl
  rw [State.busWrite, if_neg kept]
  rfl

/-- Only a write of STATUS writes OVR. -/
theorem State.writeReg_ovr (s : State) {r : Reg} (hr : r ≠ .status) (d : Word) (be : BitVec 4) :
    (s.writeReg r d be).ovr = s.ovr := by
  cases r <;> simp_all [State.writeReg]

/-- A write to any other address leaves OVR alone, when it is not lost. -/
theorem State.busWrite_ovr_of_kept {s : State} {A : BitVec 11} (hl : ¬ (s.busy = true ∧ A ≠ 2#11 ∧ A ≠ 3#11))
    (h2 : A ≠ 2#11) (d : Word) (be : BitVec 4) : (s.busWrite A d be).ovr = s.ovr := by
  rw [State.busWrite, if_neg (mt (s.writeIsLost_iff A).mp hl)]
  exact s.writeReg_ovr (mt (regAt_eq_iff_control s.params A).2.2.1.mp h2) d be

/-- OVR after a step, by what the step serves. -/
theorem step_ovr_iff {s t : State} (h : step s = .next t) :
    (s.ovr = false → (t.ovr = true ↔
      ∃ A data be rest, s.inputs = .host (.write A data be) :: rest ∧ s.busy = true ∧ A ≠ 0x002 ∧ A ≠ 0x003)) ∧
    (s.ovr = true → (t.ovr = false ↔
      (∃ data be rest, s.inputs = .host (.write 0x002 data be) :: rest ∧ data.getLsbD 8 = true) ∨
      ∃ rest, s.inputs = .reset :: rest)) := by
  rcases s.inputs_cases with hn | ⟨tr, rest, hin⟩ | ⟨rest, hin⟩
  · have keeps := step_ovr_of_sequencerNext hn h
    obtain hin | ⟨rest, hin⟩ := s.sequencerNext_iff.mp hn <;> simp [hin, keeps]
  · injection (step_of_host hin).symm.trans h with h
    subst h
    cases tr with
    | read A => simp [hin, hostTransaction, State.hostRead_eq]
    | write A d be =>
      by_cases lost : s.busy = true ∧ A ≠ 2#11 ∧ A ≠ 3#11
      · obtain ⟨hb, h2, h3⟩ := lost
        simp [hin, hostTransaction, State.busWrite_of_lost (s := s.popInput) hb h2 h3, hb, h2, h3]
      · by_cases h2 : A = 2#11
        · cases before : s.ovr <;> simp [hin, hostTransaction, h2, State.busWrite_status, before]
        · have kept := State.busWrite_ovr_of_kept (s := s.popInput) lost h2 d be
          have only3 : s.busy = true → A = 3#11 := by simpa [h2] using lost
          cases before : s.ovr
          · simpa [hin, hostTransaction, kept, h2, before] using only3
          · simp [hin, hostTransaction, kept, h2, before]
  · injection (step_of_reset hin).symm.trans h with h
    subst h
    simp [hin, State.reset]

/-- Settles O49, from OVR after a step and from the commands' indifference to it. -/
theorem ovrRecordsLostWritesUntilAcknowledged : Obligations.OvrRecordsLostWritesUntilAcknowledged := by
  refine ⟨fun s A d be rest hin hb h2 h3 => ?_, fun s t h => step_ovr_iff h, exec_setOvr⟩
  rw [step_of_host hin, hostTransaction, State.busWrite_of_lost (s := s.popInput) hb h2 h3, State.popInput, hin]
  rfl

end Sys2Proof.Machine
end

section
/-! PROOFS. No register of the host window aliases another (spec/10_state.md section 6, R121; spec/20_memory.md R206). -/

namespace Sys2Proof.Machine

section
variable (d : Word) (be : BitVec 4)

/-! ## Writing one word of an array leaves its other words as they read -/

theorem getElem_mergeBytes_of_ne {n i p : Nat} (old : Vector Byte n) (hp : p < n) (h : p / 4 ≠ i) :
    (mergeBytes old i d be)[p] = old[p] := by
  simp [mergeBytes, h]

theorem keyWord_mergeBytes_of_ne {i j : Fin 8} (h : i.val ≠ j.val) (k : Vector Byte 32) :
    keyWord (mergeBytes k i.val d be) j = keyWord k j := by
  simp (disch := omega) only [keyWord, getElem_mergeBytes_of_ne]

theorem nonceWord_mergeBytes_of_ne {i j : Fin 3} (h : i.val ≠ j.val) (n : Vector Byte 12) :
    nonceWord (mergeBytes n i.val d be) j = nonceWord n j := by
  simp (disch := omega) only [nonceWord, getElem_mergeBytes_of_ne]

theorem State.memRead_writeDbufWord_of_ne (s : State) {i a : Nat} (h : a / 4 ≠ i) :
    (s.writeDbufWord i d be).memRead a = s.memRead a := by
  rw [State.memRead_writeDbufWord, if_neg fun hit => h hit.1]

theorem State.dbufWord_writeDbufWord_of_ne (s : State) {i j : Nat} (h : i ≠ j) :
    (s.writeDbufWord i d be).dbufWord j = s.dbufWord j := by
  simp (disch := omega) only [State.dbufWord, State.memRead_writeDbufWord_of_ne]

/-! ## Writing one register leaves every other as it reads -/

/-- Arrays aside, the registers are fields of their own; the words of an array are apart. -/
theorem State.readReg_writeReg_of_ne (s : State) {r r' : Reg} (hcmd : r ≠ .cmd) (hne : r ≠ r') :
    (s.writeReg r d be).readReg r' = s.readReg r' := by
  cases r with
  | cmd => exact absurd rfl hcmd
  | id | unmapped => rfl
  | key i =>
    cases r' with
    | key j => exact keyWord_mergeBytes_of_ne d be (fun e => hne (congrArg Reg.key (Fin.ext e))) s.keyBytes
    | _ => simp [State.writeReg, State.readReg, State.statusWord, State.dbufWord, State.memRead]
  | nonce i =>
    cases r' with
    | nonce j => exact nonceWord_mergeBytes_of_ne d be (fun e => hne (congrArg Reg.nonce (Fin.ext e))) s.nonceBytes
    | _ => simp [State.writeReg, State.readReg, State.statusWord, State.dbufWord, State.memRead]
  | s i =>
    cases r' with
    | s j => exact Vector.getElem_set_ne i.isLt j.isLt fun e => hne (congrArg Reg.s (Fin.ext e))
    | _ => rfl
  | w i =>
    cases r' with
    | w j => exact Vector.getElem_set_ne i.isLt j.isLt fun e => hne (congrArg Reg.w (Fin.ext e))
    | _ => rfl
  | out i =>
    cases r' with
    | out j => exact Vector.getElem_set_ne i.isLt j.isLt fun e => hne (congrArg Reg.out (Fin.ext e))
    | _ => rfl
  | dbuf i =>
    cases r' with
    | dbuf j => exact s.dbufWord_writeDbufWord_of_ne d be fun e => hne (congrArg Reg.dbuf e)
    | _ => rfl
  | _ => cases r' <;> simp_all [State.writeReg, State.readReg, State.statusWord, State.dbufWord, State.memRead]

end

/-! ## The window -/

/-- Two word indices reach the same register only if nothing is mapped there. -/
theorem regAt_ne_of_ne (p : Params) {A B : BitVec 11} (h : A ≠ B) (hmapped : regAt p A ≠ .unmapped) :
    regAt p A ≠ regAt p B := by
  intro e
  exact h (by rw [← index_regAt p A hmapped, e, index_regAt p B (e ▸ hmapped)])

@[simp] theorem State.regAt_writeReg (s : State) (r : Reg) (d : Word) (be : BitVec 4) (A : BitVec 11) :
    (s.writeReg r d be).regAt A = s.regAt A := by
  rw [State.regAt, State.writeReg_params, State.regAt]

theorem State.busRead_of_idle {s : State} (hb : s.busy = false) (A : BitVec 11) :
    s.busRead A = s.readReg (s.regAt A) := by
  simp [State.busRead, State.readIsOpen, hb]

/-- Settles O45: distinct indices reach distinct registers, or the written one is unmapped. -/
theorem noRegisterAliasesAnother : Obligations.NoRegisterAliasesAnother := by
  intro s A B d be _ hb hA hAB
  have hcmd : s.regAt A ≠ .cmd := mt (regAt_eq_iff_control s.params A).2.1.mp hA
  have idle : (s.writeReg (s.regAt A) d be).busy = false := (s.writeReg_keeps_command _ d be hcmd).1.trans hb
  rw [State.busWrite_of_idle hb, State.busRead_of_idle idle, State.busRead_of_idle hb, State.regAt_writeReg]
  by_cases hmapped : s.regAt A = .unmapped
  · rw [hmapped]
    rfl
  · exact s.readReg_writeReg_of_ne d be hcmd (regAt_ne_of_ne s.params hAB hmapped)

end Sys2Proof.Machine
end

section
/-! PROOFS. The invariant of the machine is kept by every step: DBUF canonical and inside its bounds (spec/10_state.md R113),
the busy window (spec/20_memory.md R210), and ERR fitting the word in CMD (spec/60_exceptions.md R602). -/

namespace Sys2Proof.Machine

/-! ## ERR after a completion fits its word (R602) -/

theorem Wrote.wf {i : Instr} {s u : State} (h : Wrote i s u) : i.wf = true := by
  cases i with
  | qrw x y z w => exact decide_eq_true h.1
  | _ => rfl

theorem errFitsWord_ok_of_wrote {c : Word} {i : Instr} {s u : State} (hd : decode c = .command i) (h : Wrote i s u) :
    errFitsWord .ok c = true := by
  simp [errFitsWord, hd, h.wf]

theorem errFitsWord_of_failed {c : Word} {i : Instr} {s : State} {e : ErrCode} (hd : decode c = .command i)
    (h : Failed i s e) : errFitsWord e c = true := by
  cases e with
  | ok | illegalCommand => exact absurd h id
  | illegalIndex =>
    obtain ⟨x, y, z, w, rfl, repeated⟩ := h
    have ill : (Instr.qrw x y z w).wf = false := decide_eq_false repeated
    simp [errFitsWord, hd, ill]
  | invalidKeyLength => obtain ⟨rfl | rfl | rfl, -⟩ := h <;> simp [errFitsWord, hd, usesKey]
  | invalidNonceLength => obtain ⟨rfl | rfl | rfl, -⟩ := h <;> simp [errFitsWord, hd, usesKey]
  | invalidDataLength => obtain ⟨rfl, -⟩ := h; simp [errFitsWord, hd]

theorem errFitsWord_of_illegal {c : Word} {why : IllegalWord} (hd : decode c = .illegal why) :
    errFitsWord .illegalCommand c = true := by
  simp [errFitsWord, hd]

/-! ## A completion keeps the invariant -/

theorem State.Inv.dbufOk {s : State} (h : s.Inv) : s.dbufOk := h.2.1

theorem State.inv_finish {s : State} {e : ErrCode} (params : s.params.wf = true) (buffer : s.dbufOk)
    (fits : errFitsWord e s.cmd = true) : (s.finish e).Inv :=
  ⟨params, buffer, fun busy => absurd busy Bool.false_ne_true, fun _ => fits⟩

theorem State.Inv.after_completion {s t : State} (h : s.Inv) (hb : s.busy = true) (hx : sequencerStep s = .next t) :
    t.Inv := by
  obtain ⟨params, buffer, busyOk, -⟩ := h
  obtain ⟨hpending, -, -⟩ := busyOk hb
  rcases sequencerStep_cases s with ⟨i, hd, hi⟩ | ⟨why, hd, hi⟩
  · rw [hpending] at hd
    rcases exec_next_cases (hi.symm.trans hx) with ⟨u, hu, rfl⟩ | ⟨e, he, rfl⟩
    · have frame := hu.wroteTo.eq_with_results
      have hparams : u.params = s.params := by rw [frame]
      have hcmd : u.cmd = s.cmd := by rw [frame]
      exact State.inv_finish (hparams ▸ params) (hu.wroteTo.dbufOk buffer) (hcmd ▸ errFitsWord_ok_of_wrote hd hu)
    · exact State.inv_finish params buffer (errFitsWord_of_failed hd he)
  · rw [hpending] at hd
    rw [raise_eq_next.mp (hi.symm.trans hx)]
    exact State.inv_finish params buffer (errFitsWord_of_illegal hd)

/-! ## A host transaction keeps the invariant -/

/-- DBUF's words are mapped below DBUF_WORDS only (R203). -/
theorem lt_dbufWords_of_regAt {p : Params} {A : BitVec 11} {i : Nat} (h : regAt p A = .dbuf i) : i < p.dbufWords := by
  have row0 (c : Nat) : regRow0 c ≠ .dbuf i := by unfold regRow0; split <;> simp
  have row1 (c : Nat) : regRow1 c ≠ .dbuf i := by unfold regRow1; split <;> simp
  rcases regAt_cases p A with ⟨-, e⟩ | ⟨-, e⟩ | ⟨-, e⟩ | ⟨-, e⟩ | ⟨-, e⟩ | ⟨hl, hu, e⟩ | ⟨-, -, e⟩ <;> rw [e] at h
  · exact absurd h (row0 _)
  · exact absurd h (row1 _)
  · cases h
  · cases h
  · cases h
  · injection h with h
    omega
  · cases h

/-- The cells that the lanes of a host write leave are old ones or the lanes' own. -/
theorem Memory.mem_foldl_writeLane {i : Nat} {d : Word} {be : BitVec 4} {c : Host.Cell} {js : List Nat} {m : Memory}
    (h : c ∈ js.foldl (Memory.writeLane i d be) m) : c ∈ m ∨ ∃ j ∈ js, c.1 = 4 * i + j := by
  induction js generalizing m with
  | nil => exact .inl h
  | cons j js ih =>
    rcases ih h with h | ⟨k, hk, e⟩
    · exact (Memory.mem_writeLane i d be m j c h).imp_right fun e => ⟨j, List.mem_cons_self, e⟩
    · exact .inr ⟨k, List.mem_cons_of_mem j hk, e⟩

/-- A host write of DBUF word i adds cells inside the word only. -/
theorem State.mem_writeDbufWord {s : State} {i : Nat} {d : Word} {be : BitVec 4} {c : Host.Cell}
    (h : c ∈ (s.writeDbufWord i d be).dbuf) : c ∈ s.dbuf ∨ c.1 / 4 = i := by
  refine (Memory.mem_foldl_writeLane h).imp_right fun ⟨j, hj, e⟩ => ?_
  have lane : ∀ j ∈ [0, 1, 2, 3], j < 4 := by decide
  have := lane j hj
  omega

/-- A register write keeps DBUF canonical, and inside its bounds if it reaches a mapped word. -/
theorem State.dbufOk_writeReg {s : State} {r : Reg} (hr : ∀ i, r = .dbuf i → i < s.params.dbufWords) (d : Word)
    (be : BitVec 4) (h : s.dbufOk) : (s.writeReg r d be).dbufOk := by
  by_cases hdbuf : ∃ i, r = .dbuf i
  · obtain ⟨i, rfl⟩ := hdbuf
    obtain ⟨canonical, bounded⟩ := h
    refine ⟨s.dbufWf_writeDbufWord i d be canonical, fun c hc => ?_⟩
    rcases State.mem_writeDbufWord hc with hc | hc
    · exact bounded c hc
    · have := hr i rfl
      simp only [State.dbufBytes, State.writeReg_params]
      omega
  · have keeps := s.writeReg_keeps_dbuf r d be fun i hi => hdbuf ⟨i, hi⟩
    rwa [State.dbufOk, keeps, State.dbufBytes, State.writeReg_params]

/-- No register write sets DONE. -/
theorem State.writeReg_done_of_done {s : State} (r : Reg) (d : Word) (be : BitVec 4) (h : s.done = false) :
    (s.writeReg r d be).done = false := by
  cases r <;> simp [State.writeReg, h]

/-- The invariant speaks of the parameters, DBUF, the sequencer, CMD, DONE and ERR only, and of DONE only that it is 0 while
busy. -/
theorem State.Inv.of_frame {s t : State} (h : s.Inv) (params : t.params = s.params) (buffer : t.dbufOk)
    (busy : t.busy = s.busy) (pending : t.pending = s.pending) (cmd : t.cmd = s.cmd) (err : t.err = s.err)
    (done : s.done = false → t.done = false) : t.Inv := by
  obtain ⟨hparams, -, busyOk, idleOk⟩ := h
  refine ⟨params ▸ hparams, buffer, fun running => ?_, fun idle => ?_⟩
  · obtain ⟨hpending, hdone, herr⟩ := busyOk (busy ▸ running)
    exact ⟨by rw [pending, cmd, hpending], done hdone, err.trans herr⟩
  · rw [err, cmd]
    exact idleOk (busy ▸ idle)

theorem State.Inv.after_writeReg {s : State} (h : s.Inv) {r : Reg} (hr : ∀ i, r = .dbuf i → i < s.params.dbufWords)
    (d : Word) (be : BitVec 4) : (s.writeReg r d be).Inv := by
  have buffer := State.dbufOk_writeReg hr d be h.dbufOk
  by_cases hcmd : r = .cmd
  · subst hcmd
    exact ⟨h.1, buffer, fun _ => ⟨rfl, rfl, rfl⟩, fun idle => absurd idle Bool.true_eq_false.mp⟩
  · obtain ⟨busy, pending, cmd, err⟩ := s.writeReg_keeps_command r d be hcmd
    exact h.of_frame (s.writeReg_params r d be) buffer busy pending cmd err (State.writeReg_done_of_done r d be)

theorem State.Inv.after_hostTransaction {s : State} (h : s.Inv) (tr : Transaction) : (hostTransaction tr s).Inv := by
  cases tr with
  | read A =>
    rw [hostTransaction, State.hostRead_eq]
    exact h.of_frame rfl h.dbufOk rfl rfl rfl rfl id
  | write A d be =>
    rw [hostTransaction]
    rcases s.busWrite_cases A d be with ⟨-, e⟩ | ⟨-, e⟩ <;> rw [e]
    · exact h.of_frame rfl h.dbufOk rfl rfl rfl rfl id
    · exact h.after_writeReg (fun i => lt_dbufWords_of_regAt) d be

/-! ## Every step keeps the invariant -/

/-- Serving an entry of `inputs` is no part of the invariant. -/
theorem State.Inv.after_popInput {s : State} (h : s.Inv) : s.popInput.Inv :=
  h.of_frame rfl h.dbufOk rfl rfl rfl rfl id

/-- Reset leaves an idle core with nothing written in DBUF, and ERR fits the word 0 in CMD, which is NOP's (R701). -/
theorem State.Inv.after_reset {s : State} (h : s.Inv) : s.resetCore.Inv :=
  have fitsNop : errFitsWord .ok 0 = true := by decide
  ⟨h.1, ⟨List.Pairwise.nil, fun _ hc => absurd hc List.not_mem_nil⟩, fun busy => absurd busy Bool.false_ne_true,
    fun _ => fitsNop⟩

/-- Settles O59, by what a step can do: a completion, nothing, a host transaction, or reset. -/
theorem everyStepKeepsTheInvariant : Obligations.EveryStepKeepsTheInvariant := by
  intro s t h hstep
  rcases step_cases hstep with ⟨hb, -, hx⟩ | ⟨-, -, rfl⟩ | ⟨tr, rest, -, rfl⟩ | ⟨rest, -, rfl⟩
  · exact h.after_popInput.after_completion hb hx
  · exact h.after_popInput
  · exact h.after_popInput.after_hostTransaction tr
  · exact h.after_popInput.after_reset

end Sys2Proof.Machine
end

section
/-! PROOFS. The map of the host window (spec/20_memory.md R203) and the host byte addresses that reach it (R201, R202). -/

namespace Sys2Proof.Machine

/-- The registers that R203 maps: every name but `unmapped`, and of DBUF's words those below DBUF_WORDS. -/
def Reg.inWindow (p : Params) : Reg → Prop
  | .dbuf i => i < p.dbufWords ∧ i < 1024
  | .unmapped => False
  | _ => True

/-- Legal parameters put all of DBUF into the window. -/
theorem Reg.inWindow_dbuf {p : Params} (hp : p.wf = true) {i : Nat} (hi : i < p.dbufWords) :
    (Reg.dbuf i).inWindow p := by
  have ⟨_, bound⟩ : 1 ≤ p.dbufWords ∧ p.dbufWords ≤ 1024 := by simpa [Params.wf] using hp
  exact ⟨hi, by omega⟩

theorem regAt_dbufIndex {p : Params} {i : Nat} (hi : i < p.dbufWords) (hw : i < 1024) :
    regAt p (BitVec.ofNat 11 (0x400 + i)) = .dbuf i := by
  have index : (BitVec.ofNat 11 (0x400 + i)).toNat = 0x400 + i := by
    rw [BitVec.toNat_ofNat]
    omega
  rcases regAt_cases p (BitVec.ofNat 11 (0x400 + i)) with
    ⟨hr, -⟩ | ⟨hr, -⟩ | ⟨hr, -⟩ | ⟨hr, -⟩ | ⟨hr, -⟩ | ⟨-, -, e⟩ | ⟨-, hn, -⟩
  case inr.inr.inr.inr.inr.inl =>
    rw [e, index, Nat.add_sub_cancel_left]
  all_goals omega

/-- A mapped register stands at its index: `index_regAt` from the other side. -/
theorem regAt_index {p : Params} {r : Reg} (h : r.inWindow p) : regAt p r.index = r := by
  cases r with
  | unmapped => exact h.elim
  | dbuf i => exact regAt_dbufIndex h.1 h.2
  | key i | nonce i | s i | w i | out i => fin_cases i <;> rfl
  | _ => rfl

/-- The reserved and unmapped indices of R203 and R204. -/
theorem regAt_eq_unmapped_iff (p : Params) (A : BitVec 11) : regAt p A = .unmapped ↔
    A.toNat = 0x013 ∨ (0x018 ≤ A.toNat ∧ A.toNat ≤ 0x01F) ∨ (0x050 ≤ A.toNat ∧ A.toNat ≤ 0x3FF) ∨
      0x400 + p.dbufWords ≤ A.toNat := by
  have row0 : ∀ c < 16, regRow0 c ≠ .unmapped := by decide
  have row1 : ∀ c < 16, (regRow1 c = .unmapped ↔ c = 3 ∨ 8 ≤ c) := by decide
  have column : A.toNat % 16 < 16 := Nat.mod_lt _ (by decide)
  rcases regAt_cases p A with ⟨hr, e⟩ | ⟨hr, e⟩ | ⟨hr, e⟩ | ⟨hr, e⟩ | ⟨hr, e⟩ | ⟨hl, hu, e⟩ | ⟨hr, hn, e⟩
  · rw [e, iff_false_left (row0 _ column)]
    omega
  · rw [e, row1 _ column]
    omega
  · exact iff_of_false (by simp [e]) (by omega)
  · exact iff_of_false (by simp [e]) (by omega)
  · exact iff_of_false (by simp [e]) (by omega)
  · exact iff_of_false (by simp [e]) (by omega)
  · exact iff_of_true e (by omega)

/-- Settles O41: every register of R203 stands at its index, and the rows of the map leave only the named indices free. -/
theorem registerMapOfTheWindow : Obligations.RegisterMapOfTheWindow := by
  intro p hp
  exact ⟨⟨rfl, rfl, rfl, rfl, rfl, rfl, rfl, rfl, rfl, rfl, rfl, rfl⟩, fun i => regAt_index (r := .key i) trivial,
    fun i => regAt_index (r := .nonce i) trivial, fun i => ⟨regAt_index (r := .s i) trivial,
    regAt_index (r := .w i) trivial, regAt_index (r := .out i) trivial⟩,
    fun i hi => regAt_index (Reg.inWindow_dbuf hp hi), regAt_eq_unmapped_iff p⟩

/-- Settles O42: the word index is the distance from BASE divided by 4, inside 2048 words. -/
theorem windowOfHostByteAddresses : Obligations.WindowOfHostByteAddresses := by
  intro p a A
  have bound := A.isLt
  unfold windowIndex
  split_ifs with inside
  · rw [Option.some_inj, ← BitVec.toNat_inj, BitVec.toNat_ofNat]
    constructor
    · intro h
      exact ⟨(a - p.base) % 4, by omega, by omega⟩
    · rintro ⟨k, hk, rfl⟩
      omega
  · refine iff_of_false (by simp) ?_
    rintro ⟨k, hk, rfl⟩
    omega

end Sys2Proof.Machine
end

section
/-! PROOFS. What host reads return and what host writes do, idle and busy (spec/20_memory.md R205, R206, R210), and that BUSY
falls only by a completion or reset (R214, R216). -/

namespace Sys2Proof.Machine

/-! ## Reads -/

/-- ID, CMD, STATUS and IRQ_EN read as they are in every state (R205). -/
theorem State.busRead_of_lt_four (s : State) {A : BitVec 11} (hA : A.toNat < 4) : s.busRead A = s.readReg (s.regAt A) :=
  if_neg fun h => ((s.readIsOpen_iff A).mp h).2.not_gt hA

theorem State.busRead_of_open {s : State} {A : BitVec 11} (hb : s.busy = true) (hA : 4 ≤ A.toNat) :
    s.busRead A = Config.busyReadWord s.draws :=
  if_pos ((s.readIsOpen_iff A).mpr ⟨hb, hA⟩)

theorem State.busRead_index_of_idle {s : State} (hb : s.busy = false) {r : Reg} (hr : r.inWindow s.params) :
    s.busRead r.index = s.readReg r := by
  rw [State.busRead_of_idle hb, State.regAt, regAt_index hr]

/-- The entry that a step has served is no longer in `inputs`. -/
theorem State.popInput_of_cons {s : State} {e : Event} {rest : List Event} (h : s.inputs = e :: rest) :
    s.popInput = { s with inputs := rest } := by
  rw [State.popInput, h, List.tail_cons]

/-- Settles O43: below index 4 a read is never open, while idle it is the mapped register's value, while busy it is free. -/
theorem readsReturnWhatTheRuleSays : Obligations.ReadsReturnWhatTheRuleSays := by
  refine ⟨fun s => ?always, fun s hb => ?idle, fun s A => State.busRead_of_open, fun s A rest hin => ?step⟩
  case always =>
    exact ⟨s.busRead_of_lt_four (A := 0) (by decide), s.busRead_of_lt_four (A := 1) (by decide),
      s.busRead_of_lt_four (A := 2) (by decide), s.busRead_of_lt_four (A := 3) (by decide)⟩
  case idle =>
    have read {r : Reg} (hr : r.inWindow s.params) : s.busRead r.index = s.readReg r := State.busRead_index_of_idle hb hr
    refine ⟨read (r := .keyLen) trivial, read (r := .nonceLen) trivial, read (r := .counter) trivial,
      read (r := .len) trivial, read (r := .qa) trivial, read (r := .qb) trivial, read (r := .qc) trivial,
      read (r := .qd) trivial, fun i => read (r := .key i) trivial, fun i => read (r := .nonce i) trivial,
      fun i => ⟨read (r := .s i) trivial, read (r := .w i) trivial, read (r := .out i) trivial⟩,
      fun hp i hi => read (Reg.inWindow_dbuf hp hi), fun A hA => ?_⟩
    rw [State.busRead_of_idle hb, State.regAt, (regAt_eq_unmapped_iff s.params A).mpr hA]
    rfl
  case step =>
    rw [step_of_host hin, hostTransaction, State.hostRead_eq, State.popInput_of_cons hin]
    simp only [State.readIsOpen_iff]
    rfl

/-! ## Writes -/

/-- A write of IRQ_EN is taken whether or not the core is busy (R118, R206). -/
theorem State.busWrite_irqEn (s : State) (d : Word) (be : BitVec 4) : s.busWrite 3#11 d be = s.setDoneIe d :=
  if_neg fun h => ((s.writeIsLost_iff 3#11).mp h).2.2 rfl

theorem State.busWrite_index_of_idle {s : State} (hb : s.busy = false) {r : Reg} (hr : r.inWindow s.params) (d : Word)
    (be : BitVec 4) : s.busWrite r.index d be = s.writeReg r d be := by
  rw [State.busWrite_of_idle hb, State.regAt, regAt_index hr]

theorem lanesMerged_mergeLanes (old new : Word) (be : BitVec 4) : LanesMerged old new be (mergeLanes old new be) :=
  byteLane_mergeLanes old new be

theorem bytesMerged_mergeBytes {n : Nat} (old : Vector Byte n) (i : Nat) (new : Word) (be : BitVec 4) :
    BytesMerged old i new be (mergeBytes old i new be) :=
  getElem_mergeBytes old i new be

/-- Settles O44: STATUS and IRQ_EN always take their write, an idle core writes the mapped register, a busy one sets OVR. -/
theorem writesActAsTheRuleSays : Obligations.WritesActAsTheRuleSays := by
  refine ⟨fun s d be => ⟨s.busWrite_status d be, s.busWrite_irqEn d be⟩, fun s d be hb => ?idle,
    fun s A d be hb h2 h3 => State.busWrite_of_lost hb h2 h3 d be, fun s A d be rest hin => ?step⟩
  case idle =>
    have write {r : Reg} (hr : r.inWindow s.params) : s.busWrite r.index d be = s.writeReg r d be :=
      State.busWrite_index_of_idle hb hr d be
    have lanes (old : Word) : LanesMerged old d be (mergeLanes old d be) := lanesMerged_mergeLanes old d be
    refine ⟨write (r := .id) trivial, write (r := .cmd) trivial, write (r := .keyLen) trivial,
      write (r := .nonceLen) trivial, ⟨_, lanes _, write (r := .counter) trivial⟩, ⟨_, lanes _, write (r := .len) trivial⟩,
      ⟨_, lanes _, write (r := .qa) trivial⟩, ⟨_, lanes _, write (r := .qb) trivial⟩,
      ⟨_, lanes _, write (r := .qc) trivial⟩, ⟨_, lanes _, write (r := .qd) trivial⟩,
      fun i => ⟨⟨_, lanes _, write (r := .s i) trivial⟩, ⟨_, lanes _, write (r := .w i) trivial⟩,
        ⟨_, lanes _, write (r := .out i) trivial⟩⟩,
      fun i => ⟨_, bytesMerged_mergeBytes _ _ d be, write (r := .key i) trivial⟩,
      fun i => ⟨_, bytesMerged_mergeBytes _ _ d be, write (r := .nonce i) trivial⟩,
      fun hp i hi => ⟨_, write (Reg.inWindow_dbuf hp hi), s.memRead_writeDbufWord i d be⟩, fun A hA => ?_⟩
    rw [State.busWrite_of_idle hb, State.regAt, (regAt_eq_unmapped_iff s.params A).mpr hA]
    rfl
  case step =>
    rw [step_of_host hin, hostTransaction, State.popInput_of_cons hin]

/-! ## Acceptance, and the busy window -/

theorem State.getLsbD_statusWord_zero (s : State) : s.statusWord.getLsbD 0 = s.busy := by
  simp [State.statusWord, flagWord]

/-- A transaction while busy can change only DONE, OVR and DONE_IE, and the model's record of reads (R206, R210). -/
theorem hostTransaction_of_busy {s : State} (hb : s.busy = true) (tr : Transaction) :
    hostTransaction tr s = { s with
      done := (hostTransaction tr s).done
      ovr := (hostTransaction tr s).ovr
      doneIe := (hostTransaction tr s).doneIe
      responses := (hostTransaction tr s).responses
      draws := (hostTransaction tr s).draws } := by
  cases tr with
  | read A =>
    rw [hostTransaction, State.hostRead_eq]
  | write A d be =>
    rw [hostTransaction]
    by_cases h2 : A = 2#11
    · rw [h2, State.busWrite_status]
      rfl
    · by_cases h3 : A = 3#11
      · rw [h3, State.busWrite_irqEn]
        rfl
      · rw [State.busWrite_of_lost hb h2 h3]
        rfl

/-- Settles O48: the write to CMD is acceptance, and the window after it leaves every command register alone. -/
theorem writingCmdWhileIdleAcceptsTheCommand : Obligations.WritingCmdWhileIdleAcceptsTheCommand := by
  refine ⟨fun s c be rest hb hin => ⟨_, ?_, rfl, State.getLsbD_statusWord_zero _⟩, fun s t tr rest hb hin hstep => ?_⟩
  · rw [step_of_host hin, hostTransaction, State.busWrite_of_idle (s := s.popInput) hb, State.popInput_of_cons hin]
    rfl
  · injection (step_of_host hin).symm.trans hstep with h
    have window := hostTransaction_of_busy (s := s.popInput) hb tr
    rwa [h, State.popInput_of_cons hin] at window

/-- Settles O54: of the four things a step can do, a busy core goes idle only by completing or by reset. -/
theorem busyFallsOnlyByCompletionOrReset : Obligations.BusyFallsOnlyByCompletionOrReset := by
  intro s t hstep running idle
  rcases step_cases hstep with ⟨-, hin, hx⟩ | ⟨hb, -, -⟩ | ⟨tr, rest, -, rfl⟩ | ⟨rest, hin, -⟩
  · exact .inl ⟨s.sequencerNext_iff.mpr hin, hx⟩
  · exact absurd (running.symm.trans hb) (by decide)
  · rw [hostTransaction_of_busy (s := s.popInput) running tr] at idle
    exact absurd (running.symm.trans idle) (by decide)
  · exact .inr ⟨rest, hin⟩

end Sys2Proof.Machine
end

section
/-! PROOFS. The host's loads (spec/30_encoding.md R308): what a run of register writes leaves in an idle core, and that
`ldkey`, `ldnonce` and `ldbuf` store exactly their bytes (spec/20_memory.md R207). -/

namespace Sys2Proof.Machine

/-! ## A run of register writes -/

/-- The same state with other entries in `inputs`. -/
def State.setInputs (es : List Event) (s : State) : State := { s with inputs := es }

theorem State.writeReg_setInputs (s : State) (es : List Event) (r : Reg) (d : Word) (be : BitVec 4) :
    (s.setInputs es).writeReg r d be = (s.writeReg r d be).setInputs es := by
  cases r <;> rfl

theorem State.popInput_setInputs_cons (s : State) (e : Event) (es : List Event) :
    (s.setInputs (e :: es)).popInput = s.setInputs es := rfl

theorem run_succ_of_step (M : Host.Core) {x y : M.State} (h : M.step x = .next y) (k : Nat) :
    M.run (k + 1) x = M.run k y := by
  rw [Host.Core.run, h]

theorem runEvents_cons_of_step {e : Event} {es : List Event} {s t : State}
    (h : step (s.setInputs (e :: es)) = .next (t.setInputs es)) : runEvents (e :: es) s = runEvents es t :=
  run_succ_of_step Sys2Proof.core (x := s.setInputs (e :: es)) (y := t.setInputs es) h es.length

/-- A write to a mapped register of an idle core, served first, is that register's write. -/
theorem runEvents_wrBe_cons {s : State} (hb : s.busy = false) {r : Reg} (hr : r.inWindow s.params) (d : Word)
    (be : BitVec 4) (es : List Event) :
    runEvents (Asm.wrBe r d be :: es) s = runEvents es (s.writeReg r d be) := by
  refine runEvents_cons_of_step ?_
  rw [step_of_host (tr := .write r.index d be) (rest := es) rfl, hostTransaction, State.popInput_setInputs_cons,
    State.busWrite_index_of_idle (s := s.setInputs es) hb hr, State.writeReg_setInputs]

/-- Writes to mapped registers other than CMD keep the core idle, so a run of them is the writes one after another. -/
theorem runEvents_map_wrBe {ι : Type} {s : State} (hb : s.busy = false) (l : List ι) {r : ι → Reg} (d : ι → Word)
    (be : ι → BitVec 4) (hcmd : ∀ i, r i ≠ .cmd) (hr : ∀ i ∈ l, (r i).inWindow s.params) (es : List Event) :
    runEvents (l.map (fun i => Asm.wrBe (r i) (d i) (be i)) ++ es) s =
      runEvents es (l.foldl (fun u i => u.writeReg (r i) (d i) (be i)) s) := by
  induction l generalizing s with
  | nil => rfl
  | cons i l ih =>
    have idle : (s.writeReg (r i) (d i) (be i)).busy = false := (s.writeReg_keeps_command _ _ _ (hcmd i)).1.trans hb
    rw [List.map_cons, List.cons_append, runEvents_wrBe_cons hb (hr i List.mem_cons_self), List.foldl_cons]
    refine ih idle fun j hj => ?_
    rw [State.writeReg_params]
    exact hr j (List.mem_cons_of_mem i hj)

/-- Writes that each either set what is read to `v` or leave it: after them it is `v` if one of them hit. -/
theorem foldl_read_eq_ite {σ ι β : Type} {read : σ → β} {write : σ → ι → σ} {hit : ι → Prop} [DecidablePred hit] {v : β}
    (h : ∀ x i, read (write x i) = if hit i then v else read x) (l : List ι) (x : σ) :
    read (l.foldl write x) = if ∃ i ∈ l, hit i then v else read x := by
  induction l generalizing x with
  | nil => simp
  | cons i l ih =>
    rw [List.foldl_cons, ih, h]
    by_cases hi : hit i <;> simp [hi]

/-! ## Whole words of a register or of a byte array -/

theorem getLsbD_allLanes {j : Nat} (hj : j < 4) : (0b1111 : BitVec 4).getLsbD j = true := by
  have lanes : ∀ j < 4, (0b1111 : BitVec 4).getLsbD j = true := by decide
  exact lanes j hj

theorem mergeLanes_allLanes (old new : Word) : mergeLanes old new 0b1111 = new :=
  le32_byteLane new

theorem byteLane_le32 (b : Fin 4 → Byte) (j : Fin 4) : byteLane (le32 (b 0) (b 1) (b 2) (b 3)) j.val = b j := by
  match j with
  | 0 => exact byteLane_le32_zero ..
  | 1 => exact byteLane_le32_one ..
  | 2 => exact byteLane_le32_two ..
  | 3 => exact byteLane_le32_three ..

theorem byteLane_keyWord (k : Vector Byte 32) (i : Fin 8) (j : Fin 4) :
    byteLane (keyWord k i) j.val = k[4 * i.val + j.val] :=
  byteLane_le32 (fun j => k[4 * i.val + j.val]) j

theorem byteLane_nonceWord (n : Vector Byte 12) (i : Fin 3) (j : Fin 4) :
    byteLane (nonceWord n i) j.val = n[4 * i.val + j.val] :=
  byteLane_le32 (fun j => n[4 * i.val + j.val]) j

theorem byteLane_bufWord (bs : List Byte) (i : Nat) (j : Fin 4) :
    byteLane (Asm.bufWord bs i) j.val = bs.getD (4 * i + j.val) 0 :=
  byteLane_le32 (fun j => bs.getD (4 * i + j.val) 0) j

/-- Writing every word of a byte array with all lanes leaves exactly the words' bytes (R207). -/
theorem foldl_mergeBytes_eq {m : Nat} {new : Vector Byte (4 * m)} {word : Fin m → Word}
    (hword : ∀ (i : Fin m) (j : Fin 4), byteLane (word i) j.val = new[4 * i.val + j.val]) (old : Vector Byte (4 * m)) :
    (List.finRange m).foldl (fun v i => mergeBytes v i.val (word i) 0b1111) old = new := by
  refine Vector.ext fun p hp => ?_
  have lane : p % 4 < 4 := Nat.mod_lt _ (by decide)
  have writes (v : Vector Byte (4 * m)) (i : Fin m) :
      (mergeBytes v i.val (word i) 0b1111)[p] = if p / 4 = i.val then new[p] else v[p] := by
    refine (getElem_mergeBytes v i.val (word i) 0b1111 ⟨p, hp⟩).trans ?_
    simp only [getLsbD_allLanes lane, and_true]
    split_ifs with hi
    · rw [hword i ⟨p % 4, lane⟩]
      simp only [← hi, Nat.div_add_mod]
    · rfl
  rw [foldl_read_eq_ite (read := fun v : Vector Byte (4 * m) => v[p]) writes, if_pos]
  exact ⟨⟨p / 4, by omega⟩, List.mem_finRange _, rfl⟩

/-! ## `ldkey` and `ldnonce` -/

/-- The writes of `ldkey` change K alone, one word of it each. -/
theorem foldl_writeReg_key (s : State) (k : Vector Byte 32) :
    (List.finRange 8).foldl (fun u i => u.writeReg (.key i) (keyWord k i) 0b1111) s = { s with keyBytes := k } :=
  (List.foldl_hom (fun v => { s with keyBytes := v }) fun _ _ => rfl).trans
    (congrArg (fun v => { s with keyBytes := v }) (foldl_mergeBytes_eq (m := 8) (byteLane_keyWord k) s.keyBytes))

theorem foldl_writeReg_nonce (s : State) (n : Vector Byte 12) :
    (List.finRange 3).foldl (fun u i => u.writeReg (.nonce i) (nonceWord n i) 0b1111) s = { s with nonceBytes := n } :=
  (List.foldl_hom (fun v => { s with nonceBytes := v }) fun _ _ => rfl).trans
    (congrArg (fun v => { s with nonceBytes := v }) (foldl_mergeBytes_eq (m := 3) (byteLane_nonceWord n) s.nonceBytes))

theorem runEvents_ldkey {s : State} (hb : s.busy = false) (k : Vector Byte 32) :
    runEvents (Asm.ldkey k) s = .next { s with inputs := [], keyBytes := k, keyLen := 32 } := by
  have words := runEvents_map_wrBe hb (List.finRange 8) (r := .key) (keyWord k) (fun _ => 0b1111)
    (fun _ => Reg.noConfusion) (fun _ _ => trivial) [Asm.wr .keyLen 32]
  rw [foldl_writeReg_key] at words
  exact words.trans (runEvents_wrBe_cons (s := { s with keyBytes := k }) (r := .keyLen) hb trivial _ _ [])

theorem runEvents_ldnonce {s : State} (hb : s.busy = false) (n : Vector Byte 12) :
    runEvents (Asm.ldnonce n) s = .next { s with inputs := [], nonceBytes := n, nonceLen := 12 } := by
  have words := runEvents_map_wrBe hb (List.finRange 3) (r := .nonce) (nonceWord n) (fun _ => 0b1111)
    (fun _ => Reg.noConfusion) (fun _ _ => trivial) [Asm.wr .nonceLen 12]
  rw [foldl_writeReg_nonce] at words
  exact words.trans (runEvents_wrBe_cons (s := { s with nonceBytes := n }) (r := .nonceLen) hb trivial _ _ [])

/-- Settles O46, from the runs of `ldkey` and `ldnonce`. -/
theorem loadingKeyAndNonceStoresTheirBytes : Obligations.LoadingKeyAndNonceStoresTheirBytes :=
  fun _ k n hb => ⟨runEvents_ldkey hb k, runEvents_ldnonce hb n⟩

/-! ## `ldbuf` -/

theorem getLsbD_bufEnables (L i : Nat) (j : Fin 4) :
    (Asm.bufEnables L i).getLsbD j.val = decide (4 * i + j.val < L) := by
  have nibble : ∀ b0 b1 b2 b3 : Bool, ∀ j : Fin 4,
      (Asm.bufEnables.flagNibble b0 b1 b2 b3).getLsbD j.val = ![b0, b1, b2, b3] j := by decide
  rw [Asm.bufEnables, nibble]
  fin_cases j <;> rfl

/-- One word of `ldbuf` writes its bytes that lie below L, and nothing else. -/
theorem State.memRead_writeDbufWord_bufWord (s : State) (bs : List Byte) (i a : Nat) :
    (s.writeDbufWord i (Asm.bufWord bs i) (Asm.bufEnables bs.length i)).memRead a =
      if a / 4 = i ∧ a < bs.length then bs.getD a 0 else s.memRead a := by
  have lane : a % 4 < 4 := Nat.mod_lt _ (by decide)
  rw [State.memRead_writeDbufWord]
  by_cases hi : a / 4 = i
  · have enabled := getLsbD_bufEnables bs.length i ⟨a % 4, lane⟩
    have byte := byteLane_bufWord bs i ⟨a % 4, lane⟩
    simp only [← hi, Nat.div_add_mod] at enabled byte
    simp only [← hi, enabled, byte, true_and, decide_eq_true_eq]
  · simp only [hi, false_and, if_false]

/-- What the word writes of `ldbuf` make of the buffer. -/
def Memory.loadWords (bs : List Byte) (m : Memory) : Memory :=
  (List.range ((bs.length + 3) / 4)).foldl (fun m i =>
    [0, 1, 2, 3].foldl (Memory.writeLane i (Asm.bufWord bs i) (Asm.bufEnables bs.length i)) m) m

theorem foldl_writeReg_dbuf (s : State) (bs : List Byte) :
    (List.range ((bs.length + 3) / 4)).foldl
      (fun u i => u.writeReg (.dbuf i) (Asm.bufWord bs i) (Asm.bufEnables bs.length i)) s =
        { s with dbuf := s.dbuf.loadWords bs } :=
  List.foldl_hom (fun m => { s with dbuf := m }) (fun _ _ => rfl)

theorem State.memRead_loadWords (s : State) (bs : List Byte) (a : Nat) :
    State.memRead { s with dbuf := s.dbuf.loadWords bs } a = bs.getD a (s.memRead a) := by
  have reads := foldl_read_eq_ite (read := fun m => State.memRead { s with dbuf := m } a)
    (fun m i => State.memRead_writeDbufWord_bufWord { s with dbuf := m } bs i a) (List.range ((bs.length + 3) / 4)) s.dbuf
  refine Eq.trans reads ?_
  have covered : (∃ i ∈ List.range ((bs.length + 3) / 4), a / 4 = i ∧ a < bs.length) ↔ a < bs.length :=
    ⟨fun ⟨_, _, _, ha⟩ => ha, fun ha => ⟨a / 4, List.mem_range.mpr (by omega), rfl, ha⟩⟩
  simp only [covered]
  split_ifs with ha
  · rw [List.getD_eq_getElem _ _ ha, List.getD_eq_getElem _ _ ha]
  · rw [List.getD_eq_default _ _ (by omega)]

theorem runEvents_ldbuf {s : State} (hp : s.params.wf = true) (hb : s.busy = false) {bs : List Byte}
    (hlen : bs.length ≤ 4 * s.params.dbufWords) :
    runEvents (Asm.ldbuf bs) s =
      .next { s with inputs := [], dbuf := s.dbuf.loadWords bs, len := BitVec.ofNat 32 bs.length } := by
  have mapped : ∀ i ∈ List.range ((bs.length + 3) / 4), (Reg.dbuf i).inWindow s.params := fun i hi =>
    Reg.inWindow_dbuf hp (by have := List.mem_range.mp hi; omega)
  have words := runEvents_map_wrBe hb _ (r := .dbuf) (Asm.bufWord bs) (Asm.bufEnables bs.length)
    (fun _ => Reg.noConfusion) mapped [Asm.wr .len (BitVec.ofNat 32 bs.length)]
  rw [foldl_writeReg_dbuf] at words
  rw [Asm.ldbuf, words, Asm.wr, runEvents_wrBe_cons (s := { s with dbuf := s.dbuf.loadWords bs }) (r := .len) hb trivial,
    State.writeReg, mergeLanes_allLanes]
  rfl

/-- Settles O47, from the run of `ldbuf` and what the loaded buffer reads as. -/
theorem loadingTheBufferStoresItsBytes : Obligations.LoadingTheBufferStoresItsBytes :=
  fun s bs hp hb hlen => ⟨s.dbuf.loadWords bs, runEvents_ldbuf hp hb hlen, s.memRead_loadWords bs⟩

end Sys2Proof.Machine
end

section
/-! PROOFS. The command word (spec/30_encoding.md R301 to R307): decoder and encoder, field by field. -/

namespace Sys2Proof

/-! ## The fields as numbers (R301) -/

theorem toNat_fieldOp (c : Word) : (fieldOp c).toNat = c.toNat % 2 ^ 4 := by
  simp [fieldOp]

theorem toNat_fieldRsv0 (c : Word) : (fieldRsv0 c).toNat = c.toNat / 2 ^ 4 % 2 ^ 4 := by
  simp [fieldRsv0, Nat.shiftRight_eq_div_pow]

theorem toNat_fieldRsv1 (c : Word) : (fieldRsv1 c).toNat = c.toNat / 2 ^ 24 % 2 ^ 8 := by
  simp [fieldRsv1, Nat.shiftRight_eq_div_pow]

theorem toNat_fieldIndices (c : Word) : (fieldIndices c).toNat = c.toNat / 2 ^ 8 % 2 ^ 16 := by
  simp [fieldIndices, Nat.shiftRight_eq_div_pow]

theorem toNat_fieldX (c : Word) : (fieldX c).toNat = c.toNat / 2 ^ 8 % 2 ^ 4 := by
  simp [fieldX, Nat.shiftRight_eq_div_pow]

theorem toNat_fieldY (c : Word) : (fieldY c).toNat = c.toNat / 2 ^ 12 % 2 ^ 4 := by
  simp [fieldY, Nat.shiftRight_eq_div_pow]

theorem toNat_fieldZ (c : Word) : (fieldZ c).toNat = c.toNat / 2 ^ 16 % 2 ^ 4 := by
  simp [fieldZ, Nat.shiftRight_eq_div_pow]

theorem toNat_fieldWI (c : Word) : (fieldWI c).toNat = c.toNat / 2 ^ 20 % 2 ^ 4 := by
  simp [fieldWI, Nat.shiftRight_eq_div_pow]

/-! ## What a command puts into the fields (R303) -/

/-- The value of the OP field. -/
def Instr.opcode : Instr → Nat
  | .nop => 0
  | .qr => 1
  | .qrw _ _ _ _ => 2
  | .init => 3
  | .copy => 4
  | .dround => 5
  | .mix => 6
  | .addback => 7
  | .block => 8
  | .xor => 9

/-- The value of bits [23:8]: QRW's indices, X the lowest, and 0 for any other command. -/
def Instr.indices : Instr → Nat
  | .qrw x y z w => x.val + 16 * y.val + 256 * z.val + 4096 * w.val
  | _ => 0

theorem Instr.opcode_le (i : Instr) : i.opcode ≤ 9 := by
  cases i <;> simp [Instr.opcode]

theorem Instr.indices_lt (i : Instr) : i.indices < 2 ^ 16 := by
  cases i with
  | qrw x y z w => simp only [Instr.indices]; omega
  | _ => decide

/-- An index ORed in above the bits of `v` adds its weight. -/
theorem toNat_or_indexBits {v : Word} {k : Nat} (hv : v.toNat < 2 ^ k) (hk : k ≤ 28) (x : Fin 16) :
    (v ||| indexBits x <<< k).toNat = v.toNat + 2 ^ k * x.val := by
  have room : x.val * 2 ^ k < 2 ^ 32 :=
    calc x.val * 2 ^ k < 2 ^ 4 * 2 ^ k := Nat.mul_lt_mul_of_pos_right x.isLt (Nat.two_pow_pos k)
      _ = 2 ^ (4 + k) := (Nat.pow_add 2 4 k).symm
      _ ≤ 2 ^ 32 := Nat.pow_le_pow_right (by decide) (by omega)
  have index : (indexBits x).toNat = x.val := Nat.mod_eq_of_lt (x.isLt.trans (by decide))
  rw [BitVec.toNat_or, BitVec.toNat_shiftLeft, index, Nat.shiftLeft_eq, Nat.mod_eq_of_lt room, Nat.or_comm,
    Nat.mul_comm, ← Nat.two_pow_add_eq_or_of_lt hv, Nat.add_comm]

theorem toNat_encode (i : Instr) : (encode i).toNat = i.opcode + 2 ^ 8 * i.indices := by
  cases i with
  | qrw x y z w =>
    have hx := toNat_or_indexBits (v := 2#32) (k := 8) (by decide) (by decide) x
    have hy := toNat_or_indexBits (k := 12) (by rw [hx, BitVec.toNat_ofNat]; omega) (by decide) y
    have hz := toNat_or_indexBits (k := 16) (by rw [hy, hx, BitVec.toNat_ofNat]; omega) (by decide) z
    have hw := toNat_or_indexBits (k := 20) (by rw [hz, hy, hx, BitVec.toNat_ofNat]; omega) (by decide) w
    refine hw.trans ?_
    rw [hz, hy, hx, BitVec.toNat_ofNat, Instr.opcode, Instr.indices]
    omega
  | _ => rfl

/-! ## The decoder reads exactly the words that `encode` writes -/

/-- The four fields fill the word (R301). -/
theorem encode_eq_iff {c : Word} {i : Instr} : encode i = c ↔
    fieldRsv0 c = 0#4 ∧ fieldRsv1 c = 0#8 ∧ (fieldOp c).toNat = i.opcode ∧ (fieldIndices c).toNat = i.indices := by
  have := c.isLt
  have := i.opcode_le
  have := i.indices_lt
  rw [← BitVec.toNat_inj, ← BitVec.toNat_inj, ← BitVec.toNat_inj, toNat_encode, toNat_fieldRsv0, toNat_fieldRsv1,
    toNat_fieldOp, toNat_fieldIndices, BitVec.toNat_ofNat, BitVec.toNat_ofNat]
  omega

theorem decodeFixed_eq_command_iff {c : Word} {i j : Instr} :
    decodeFixed c i = .command j ↔ fieldIndices c = 0 ∧ i = j := by
  unfold decodeFixed
  split_ifs with h
  · simp [h]
  · exact iff_of_false id (mt And.left h)

theorem encode_eq_of_decode {c : Word} {i : Instr} (h : decode c = .command i) : encode i = c := by
  unfold decode at h
  split_ifs at h with reserved
  obtain ⟨rsv0, rsv1⟩ : fieldRsv0 c = 0 ∧ fieldRsv1 c = 0 := by simpa using reserved
  rw [encode_eq_iff]
  split at h
  case h_3 hop =>
    injection h with h
    subst h
    refine ⟨rsv0, rsv1, hop, ?_⟩
    simp only [Instr.indices, BitVec.val_toFin, toNat_fieldIndices, toNat_fieldX, toNat_fieldY, toNat_fieldZ,
      toNat_fieldWI]
    omega
  case h_11 => cases h
  all_goals
    rename_i hop
    obtain ⟨indices, rfl⟩ := decodeFixed_eq_command_iff.mp h
    exact ⟨rsv0, rsv1, hop, congrArg BitVec.toNat indices⟩

theorem decode_encode (i : Instr) : decode (encode i) = .command i := by
  obtain ⟨rsv0, rsv1, hop, indices⟩ := encode_eq_iff.mp (Eq.refl (encode i))
  have legal : ¬ (fieldRsv0 (encode i) ≠ 0 ∨ fieldRsv1 (encode i) ≠ 0) := by simp [rsv0, rsv1]
  rw [decode, if_neg legal, hop]
  cases i with
  | qrw x y z w =>
    obtain ⟨hx, hy, hz, hw⟩ : (fieldX (encode (.qrw x y z w))).toNat = x ∧ (fieldY (encode (.qrw x y z w))).toNat = y ∧
        (fieldZ (encode (.qrw x y z w))).toNat = z ∧ (fieldWI (encode (.qrw x y z w))).toNat = w := by
      rw [toNat_fieldX, toNat_fieldY, toNat_fieldZ, toNat_fieldWI, toNat_encode, Instr.opcode, Instr.indices]
      omega
    simp [Instr.opcode, Fin.ext_iff, hx, hy, hz, hw]
  | _ => exact if_pos (BitVec.eq_of_toNat_eq indices)

theorem decode_eq_command_iff {c : Word} {i : Instr} : decode c = .command i ↔ encode i = c :=
  ⟨encode_eq_of_decode, fun h => h ▸ decode_encode i⟩

theorem encode_injective : Function.Injective encode := fun i _ h =>
  Decoded.command.inj ((decode_encode i).symm.trans (decode_eq_command_iff.mpr h.symm))

/-- Settles O4, from the fields of an encoded word. -/
theorem decodeOfEncodeIsTheCommand : Obligations.DecodeOfEncodeIsTheCommand :=
  decode_encode

/-- Settles O5, from the fields of a word that decodes. -/
theorem encodeOfDecodeIsTheWord : Obligations.EncodeOfDecodeIsTheWord :=
  fun _ _ => encode_eq_of_decode

/-- Settles O7: bits [23:8] hold the four indices, four bits each. -/
theorem qrwIndicesAreTheFields : Obligations.QrwIndicesAreTheFields := by
  intro c x y z w h
  obtain ⟨-, -, -, indices⟩ := encode_eq_iff.mp (encode_eq_of_decode h)
  rw [toNat_fieldIndices, Instr.indices] at indices
  omega

/-- Settles O3: the legal words are encodings, and each illegal one breaks one clause of R304. -/
theorem writtenOutWordsDecode : Obligations.WrittenOutWordsDecode :=
  ⟨decode_encode .nop, decode_encode .qr, decode_encode (.qrw 2 7 8 13), decode_encode (.qrw 1 1 2 3),
    decode_encode .init, decode_encode .copy, decode_encode .dround, decode_encode .mix, decode_encode .addback,
    decode_encode .block, decode_encode .xor, by decide, by decide, by decide, by decide⟩

/-! ## The opcode table (R303) -/

/-- A word with QRW's opcode and zero reserved fields is QRW's, whatever its indices are (R301, R305). -/
theorem decode_of_op_eq_two {c : Word} (rsv0 : fieldRsv0 c = 0#4) (rsv1 : fieldRsv1 c = 0#8) (op : fieldOp c = 2#4) :
    decode c = .command (.qrw (fieldX c).toFin (fieldY c).toFin (fieldZ c).toFin (fieldWI c).toFin) := by
  have legal : ¬ (fieldRsv0 c ≠ 0 ∨ fieldRsv1 c ≠ 0) := by simp [rsv0, rsv1]
  rw [decode, if_neg legal, op]
  rfl

/-- A field that lies under the mask is the pattern's. -/
theorem extractLsb'_eq_of_and_eq {c mask pattern : Word} {start len : Nat}
    (covered : mask.extractLsb' start len = BitVec.allOnes len) (h : c &&& mask = pattern) :
    c.extractLsb' start len = pattern.extractLsb' start len := by
  rw [← h, BitVec.extractLsb'_and, covered, BitVec.and_allOnes]

/-- QRW's row fixes OP and the reserved fields and leaves the indices free. -/
theorem qrw_row_matches_iff (c : Word) :
    OpcodeRow.matches ⟨"QRW", 0x00000002, 0xFF0000FF⟩ c = true ↔ ∃ j, j.mnemonic = "QRW" ∧ decode c = .command j := by
  rw [OpcodeRow.matches, decide_eq_true_iff]
  constructor
  · intro h
    have rsv0 : fieldRsv0 c = 0#4 := extractLsb'_eq_of_and_eq (by decide) h
    have rsv1 : fieldRsv1 c = 0#8 := extractLsb'_eq_of_and_eq (by decide) h
    have op : fieldOp c = 2#4 := extractLsb'_eq_of_and_eq (by decide) h
    exact ⟨_, rfl, decode_of_op_eq_two rsv0 rsv1 op⟩
  · rintro ⟨j, name, hd⟩
    rw [← encode_eq_of_decode hd]
    cases j with
    | qrw x y z w => exact Laws.RowOfEncoding.qrw_fixed_bits x y z w
    | _ => exact absurd name (by decide)

/-- The rows stand in the order of the opcodes. -/
theorem Instr.opcode_eq_findIdx (i : Instr) : i.opcode = opcodeTable.findIdx (·.mnemonic == i.mnemonic) := by
  cases i <;> rfl

theorem Instr.indices_eq_zero {i : Instr} (h : i.opcode ≠ 2) : i.indices = 0 := by
  cases i with
  | qrw => exact absurd rfl h
  | _ => rfl

/-- A mnemonic other than QRW has one word. -/
theorem encode_eq_of_mnemonic_eq {i j : Instr} (hi : i.opcode ≠ 2) (h : j.mnemonic = i.mnemonic) :
    encode j = encode i := by
  have op : j.opcode = i.opcode := by rw [j.opcode_eq_findIdx, h, ← i.opcode_eq_findIdx]
  apply BitVec.eq_of_toNat_eq
  rw [toNat_encode, toNat_encode, op, Instr.indices_eq_zero hi, Instr.indices_eq_zero (op ▸ hi)]

theorem full_row_matches_iff {i : Instr} (hi : i.opcode ≠ 2) (c : Word) :
    OpcodeRow.matches ⟨i.mnemonic, encode i, 0xFFFFFFFF⟩ c = true ↔
      ∃ j, j.mnemonic = i.mnemonic ∧ decode c = .command j := by
  have whole : c &&& 0xFFFFFFFF = c := BitVec.and_allOnes
  rw [OpcodeRow.matches, decide_eq_true_iff, whole]
  constructor
  · rintro rfl
    exact ⟨i, rfl, decode_encode i⟩
  · rintro ⟨j, name, hd⟩
    rw [← encode_eq_of_decode hd, encode_eq_of_mnemonic_eq hi name]

/-- A row matches exactly the words of the commands with its mnemonic. -/
theorem opcodeTable_matches_iff (c : Word) : ∀ r ∈ opcodeTable,
    (r.matches c = true ↔ ∃ i, i.mnemonic = r.mnemonic ∧ decode c = .command i) := by
  simp only [opcodeTable, List.forall_mem_cons]
  exact ⟨full_row_matches_iff (i := .nop) (by decide) c, full_row_matches_iff (i := .qr) (by decide) c,
    qrw_row_matches_iff c, full_row_matches_iff (i := .init) (by decide) c,
    full_row_matches_iff (i := .copy) (by decide) c, full_row_matches_iff (i := .dround) (by decide) c,
    full_row_matches_iff (i := .mix) (by decide) c, full_row_matches_iff (i := .addback) (by decide) c,
    full_row_matches_iff (i := .block) (by decide) c, full_row_matches_iff (i := .xor) (by decide) c, by simp⟩

/-- Settles O6: the rows match by mnemonic, and every mnemonic has its row. -/
theorem theOpcodeTableIsTheDecoder : Obligations.TheOpcodeTableIsTheDecoder := by
  intro c
  have rows := opcodeTable_matches_iff c
  cases hd : decode c with
  | illegal why =>
    have none_matches : opcodeTable.find? (·.matches c) = none := by
      simpa [hd] using rows
    rw [none_matches]
    rfl
  | command i =>
    have byName : ∀ r ∈ opcodeTable, r.matches c = (i.mnemonic == r.mnemonic) := fun r hr => by
      rw [Bool.eq_iff_iff, rows r hr, beq_iff_eq, hd]
      simp
    rw [List.find?_congr byName]
    cases i <;> rfl

end Sys2Proof
end

section
/-! PROOFS. Strict decode (spec/30_encoding.md R304, R305): which words are legal, how many there are, how many of them
repeat an index, and how the others and these complete. -/

namespace Sys2Proof.Machine

/-! ## The legal words (R304) -/

theorem exists_opcode_eq : ∀ n ≤ 9, ∃ i : Instr, i.opcode = n ∧ i.indices = 0
  | 0, _ => ⟨.nop, rfl, rfl⟩
  | 1, _ => ⟨.qr, rfl, rfl⟩
  | 2, _ => ⟨.qrw 0 0 0 0, rfl, rfl⟩
  | 3, _ => ⟨.init, rfl, rfl⟩
  | 4, _ => ⟨.copy, rfl, rfl⟩
  | 5, _ => ⟨.dround, rfl, rfl⟩
  | 6, _ => ⟨.mix, rfl, rfl⟩
  | 7, _ => ⟨.addback, rfl, rfl⟩
  | 8, _ => ⟨.block, rfl, rfl⟩
  | 9, _ => ⟨.xor, rfl, rfl⟩

theorem exists_decode_eq_command_iff (c : Word) : (∃ i, decode c = .command i) ↔
    (fieldOp c).toNat ≤ 9 ∧ fieldRsv0 c = 0#4 ∧ fieldRsv1 c = 0#8 ∧ (fieldOp c = 2#4 ∨ fieldIndices c = 0#16) := by
  constructor
  · rintro ⟨i, hd⟩
    obtain ⟨rsv0, rsv1, op, indices⟩ := encode_eq_iff.mp (encode_eq_of_decode hd)
    refine ⟨op.trans_le i.opcode_le, rsv0, rsv1, ?_⟩
    by_cases hi : i.opcode = 2
    · exact .inl (BitVec.eq_of_toNat_eq (op.trans hi))
    · exact .inr (BitVec.eq_of_toNat_eq (indices.trans (Instr.indices_eq_zero hi)))
  · rintro ⟨known, rsv0, rsv1, op | indices⟩
    · exact ⟨_, decode_of_op_eq_two rsv0 rsv1 op⟩
    · obtain ⟨i, op, none⟩ := exists_opcode_eq _ known
      exact ⟨i, decode_eq_command_iff.mpr
        (encode_eq_iff.mpr ⟨rsv0, rsv1, op.symm, (congrArg BitVec.toNat indices).trans none.symm⟩)⟩

/-! ## Their number -/

/-- QRW at a quadruple of indices. -/
def qrwAt (f : Fin 4 → Fin 16) : Instr := .qrw (f 0) (f 1) (f 2) (f 3)

theorem qrwAt_injective : Function.Injective qrwAt := by
  intro f g h
  obtain ⟨h0, h1, h2, h3⟩ := Instr.qrw.inj h
  funext k
  match k with
  | 0 => exact h0
  | 1 => exact h1
  | 2 => exact h2
  | 3 => exact h3

/-- The commands without operands. -/
def fixedCommands : Finset Instr := {.nop, .qr, .init, .copy, .dround, .mix, .addback, .block, .xor}

theorem mem_range_qrwAt_or_fixedCommands (i : Instr) : i ∈ Set.range qrwAt ∪ fixedCommands := by
  cases i with
  | qrw x y z w => exact .inl ⟨![x, y, z, w], rfl⟩
  | _ => exact .inr (by decide)

theorem card_instr : Nat.card Instr = 10 + 65535 := by
  have disjoint : Disjoint (Set.range qrwAt) fixedCommands := by
    rw [Set.disjoint_left]
    rintro _ ⟨f, rfl⟩
    simp [qrwAt, fixedCommands]
  have quadruples : (Set.range qrwAt).ncard = 16 ^ 4 := by
    rw [← Nat.card_coe_set_eq, Nat.card_range_of_injective qrwAt_injective]
    simp
  have fixed : (fixedCommands : Set Instr).ncard = 9 := by
    rw [Set.ncard_coe_finset]
    rfl
  rw [← Set.ncard_univ, ← Set.eq_univ_of_forall mem_range_qrwAt_or_fixedCommands,
    Set.ncard_union_eq disjoint (Set.finite_range _) (Finset.finite_toSet _), quadruples, fixed]
  norm_num

theorem card_legal_words : Nat.card { c : Word // ∃ i, decode c = .command i } = 10 + 65535 := by
  have encodings : { c : Word | ∃ i, decode c = .command i } = Set.range encode :=
    Set.ext fun c => exists_congr fun i => decode_eq_command_iff
  rw [← card_instr, ← Nat.card_range_of_injective encode_injective, ← encodings]
  rfl

/-- Settles O8, from the fields of the legal words and the number of the commands. -/
theorem strictDecodeAndItsError : Obligations.StrictDecodeAndItsError := by
  refine ⟨exists_decode_eq_command_iff, card_legal_words, fun s illegal => ?_⟩
  obtain ⟨i, hd, -⟩ | ⟨why, -, hx⟩ := sequencerStep_cases s
  · exact absurd hd (illegal i)
  · exact hx

/-! ## QRW words with repeated indices (R305) -/

theorem nodup_indices_iff (f : Fin 4 → Fin 16) : [f 0, f 1, f 2, f 3].Nodup ↔ Function.Injective f :=
  List.nodup_ofFn (f := f)

/-- 16 * 15 * 14 * 13 of the 16^4 quadruples repeat no index. -/
theorem card_not_injective : Nat.card { f : Fin 4 → Fin 16 // ¬ Function.Injective f } = 21856 := by
  have distinct : Fintype.card { f : Fin 4 → Fin 16 // Function.Injective f } = Nat.descFactorial 16 4 := by
    rw [Fintype.card_congr (Equiv.subtypeInjectiveEquivEmbedding _ _), Fintype.card_embedding_eq, Fintype.card_fin,
      Fintype.card_fin]
  rw [Nat.card_eq_fintype_card, Fintype.card_subtype_compl, distinct, Fintype.card_fun, Fintype.card_fin,
    Fintype.card_fin]
  rfl

theorem card_repeated_index_words :
    Nat.card { c : Word // ∃ x y z w, decode c = .command (.qrw x y z w) ∧ ¬ [x, y, z, w].Nodup } = 21856 := by
  have encodings : { c : Word | ∃ x y z w, decode c = .command (.qrw x y z w) ∧ ¬ [x, y, z, w].Nodup } =
      (encode ∘ qrwAt) '' { f | ¬ Function.Injective f } := by
    ext c
    constructor
    · rintro ⟨x, y, z, w, hd, repeated⟩
      exact ⟨![x, y, z, w], mt (nodup_indices_iff ![x, y, z, w]).mpr repeated, encode_eq_of_decode hd⟩
    · rintro ⟨f, repeated, rfl⟩
      exact ⟨f 0, f 1, f 2, f 3, decode_encode (qrwAt f), mt (nodup_indices_iff f).mp repeated⟩
  rw [← card_not_injective]
  refine (congrArg Nat.card (congrArg Set.Elem encodings)).trans ?_
  exact Nat.card_image_of_injective (encode_injective.comp qrwAt_injective) _

/-- Settles O9: QRW decodes at every quadruple, its index check fails on these, and they are counted by the injections. -/
theorem repeatedIndicesDecodeAndFail : Obligations.RepeatedIndicesDecodeAndFail :=
  ⟨fun x y z w repeated => ⟨decode_encode _, fun _ => exec_of_failed (e := .illegalIndex) ⟨x, y, z, w, rfl, repeated⟩⟩,
    card_repeated_index_words⟩

end Sys2Proof.Machine
end

section
/-! PROOFS. `wait` (spec/30_encoding.md R308): its reads of STATUS around the completion of the running command, for every
latency (spec/70_reset_and_hazards.md R716). -/

namespace Sys2Proof.Machine

/-! ## A completion neither reads nor writes what is still to happen and what was read -/

/-- The same state with other entries in `inputs` and another record of the reads. -/
def State.setOutside (es : List Event) (rs : List Word) (s : State) : State := { s with inputs := es, responses := rs }

@[simp] theorem State.setOutside_pending (s : State) (es : List Event) (rs : List Word) :
    (s.setOutside es rs).pending = s.pending := rfl

theorem Wrote.setOutside {i : Instr} {s u : State} (h : Wrote i s u) (es : List Event) (rs : List Word) :
    Wrote i (s.setOutside es rs) (u.setOutside es rs) := by
  cases i with
  | nop | qr | copy | dround | mix | addback => cases h; rfl
  | qrw x y z w => obtain ⟨distinct, rfl⟩ := h; exact ⟨distinct, rfl⟩
  | init | block => obtain ⟨hk, hn, rfl⟩ := h; exact ⟨hk, hn, rfl⟩
  | xor => obtain ⟨hk, hn, hl, rfl⟩ := h; exact ⟨hk, hn, hl, rfl⟩

theorem Failed.setOutside {i : Instr} {s : State} {e : ErrCode} (h : Failed i s e) (es : List Event) (rs : List Word) :
    Failed i (s.setOutside es rs) e := by
  cases e <;> exact h

/-- A completion ends idle and carries the outside along. -/
theorem sequencerStep_setOutside (s : State) : ∃ u : State, u.busy = false ∧
    ∀ es rs, sequencerStep (s.setOutside es rs) = .next (u.setOutside es rs) := by
  obtain ⟨i, hd, -⟩ | ⟨why, hd, -⟩ := sequencerStep_cases s
  · have runs (es rs) : sequencerStep (s.setOutside es rs) = exec i (s.setOutside es rs) := by
      rw [sequencerStep, State.setOutside_pending, hd]
    rcases exec_outcome i s with ⟨u, hu, -⟩ | ⟨e, he, -⟩
    · exact ⟨u.finish .ok, rfl, fun es rs => (runs es rs).trans (exec_of_wrote (hu.setOutside es rs))⟩
    · exact ⟨s.finish e, rfl, fun es rs => (runs es rs).trans (exec_of_failed (he.setOutside es rs))⟩
  · refine ⟨s.finish .illegalCommand, rfl, fun es rs => ?_⟩
    rw [sequencerStep, State.setOutside_pending, hd]
    rfl

/-! ## The loop on STATUS -/

/-- A read of STATUS gives STATUS, idle or busy, and changes nothing else (R205). -/
theorem State.hostRead_status (s : State) : s.hostRead 2#11 = s.respond s.statusWord := by
  have closed : ¬ s.readIsOpen 2#11 = true := fun h => absurd ((s.readIsOpen_iff 2#11).mp h).2 (by decide)
  rw [State.hostRead, if_neg closed, s.busRead_of_lt_four (by decide)]
  rfl

theorem runEvents_rd_status_cons (s : State) (es : List Event) :
    runEvents (Asm.rd .status :: es) s = runEvents es (s.respond s.statusWord) :=
  runEvents_cons_of_step ((step_of_host (tr := .read 2#11) (rest := es) rfl).trans
    (congrArg Host.Outcome.next (s.setInputs es).hostRead_status))

/-- Reads of STATUS before the completion record the same word each time. -/
theorem runEvents_polls (s : State) (polls : Nat) (es : List Event) :
    runEvents (List.replicate polls (Asm.rd .status) ++ es) s =
      runEvents es (s.setOutside [] (List.replicate polls s.statusWord ++ s.responses)) := by
  induction polls generalizing s with
  | zero => rfl
  | succ polls ih =>
    rw [List.replicate_succ, List.cons_append, runEvents_rd_status_cons, ih, List.replicate_succ', List.append_assoc]
    rfl

/-- Settles O56: the polls read the busy STATUS, the completion carries their record along, and the last read is idle. -/
theorem waitEndsWhenTheCommandCompletes : Obligations.WaitEndsWhenTheCommandCompletes := by
  intro s polls hb
  obtain ⟨u, idle, completes⟩ := sequencerStep_setOutside s
  refine ⟨_, u.setOutside [] s.responses, u.statusWord, completes [] s.responses, ?_, rfl,
    u.getLsbD_statusWord_zero.trans idle, s.getLsbD_statusWord_zero.trans hb⟩
  have completion (rs : List Word) : runEvents [.sequencer, Asm.rd .status] (s.setOutside [] rs) =
      runEvents [Asm.rd .status] (u.setOutside [] rs) :=
    runEvents_cons_of_step ((step_of_sequencerNext (s := s.setOutside [.sequencer, Asm.rd .status] rs) hb rfl).trans
      (completes [Asm.rd .status] rs))
  calc runEvents (Asm.wait polls) s
      = runEvents [.sequencer, Asm.rd .status] (s.setOutside [] (List.replicate polls s.statusWord ++ s.responses)) :=
        runEvents_polls s polls _
    _ = runEvents [Asm.rd .status] (u.setOutside [] (List.replicate polls s.statusWord ++ s.responses)) :=
        completion _
    _ = _ := runEvents_rd_status_cons _ []

end Sys2Proof.Machine
end

section
/-! PROOFS. The quarter round on four words (spec/40_quarter_round.md R401, R403, R406): its twelve steps, that they lose
nothing, and QR. -/

namespace Sys2Proof.Machine

/-! ## The twelve steps (R401) -/

theorem rotl32_eq_rotateLeft (v : Word) {n : Nat} (hn : n < 32) : rotl32 v n = v.rotateLeft n := by
  rw [rotl32, BitVec.rotateLeft_def, Nat.mod_eq_of_lt hn]

/-- The test vector of the source's section 4.1. -/
theorem qrf_source_vector : qrf 0x11111111 0x01020304 0x9b8d6f43 0x01234567 =
    (0xea2a92f4, 0xcb1cf8ce, 0x4581472e, 0x5881c4bb) := by decide

/-- Settles O13: each `rotl32` is the library's rotation, and the vector is evaluated. -/
theorem quarterRoundIsTheTwelveSteps : Obligations.QuarterRoundIsTheTwelveSteps := by
  refine ⟨fun a b c d => ?_, qrf_source_vector⟩
  simp only [qrf, add32, rotl32_eq_rotateLeft, Nat.reduceLT]

/-! ## The steps lose nothing (R406) -/

/-- A rotation is undone by reading bit i of the operand at place i + n, around the top. -/
theorem rotl32_injective {n : Nat} (hn : n < 32) : Function.Injective fun v => rotl32 v n := by
  have bit (v : Word) {i : Nat} (hi : i < 32) : v.getLsbD i = (rotl32 v n).getLsbD ((i + n) % 32) := by
    rw [getLsbD_rotl32_eq_mod v n _ hn (Nat.mod_lt _ (by decide)), show ((i + n) % 32 + 32 - n) % 32 = i by omega]
  intro u v h
  apply BitVec.eq_of_getLsbD_eq
  intro i hi
  rw [bit u hi, bit v hi]
  exact congrArg (·.getLsbD ((i + n) % 32)) h

/-- One line of R401's listing: an addition, an xor and a rotation by n. The result is ordered for the next line, which
works on c, d and b as this one does on a, b and d. -/
def quarterLine (n : Nat) : Word × Word × Word × Word → Word × Word × Word × Word
  | (a, b, c, d) => (c, rotl32 (d ^^^ add32 a b) n, add32 a b, b)

theorem qrf_eq_comp_quarterLines : (fun q : Word × Word × Word × Word => qrf q.1 q.2.1 q.2.2.1 q.2.2.2) =
    quarterLine 7 ∘ quarterLine 8 ∘ quarterLine 12 ∘ quarterLine 16 := rfl

/-- From a line's result: c and b stand in it, a is the sum less b, and d is the rotation undone, xored with the sum. -/
theorem quarterLine_injective {n : Nat} (hn : n < 32) : Function.Injective (quarterLine n) := by
  rintro ⟨a, b, c, d⟩ ⟨a', b', c', d'⟩ h
  simp only [quarterLine, Prod.mk.injEq] at h
  obtain ⟨rfl, rotated, sum, rfl⟩ := h
  obtain rfl : a = a' := (BitVec.add_left_inj b).mp sum
  obtain rfl : d = d' := (BitVec.xor_left_inj (add32 a b)).mp (rotl32_injective hn rotated)
  rfl

/-- Settles O14: the four lines are injective, and an injection of a finite type into itself is a bijection. -/
theorem quarterRoundIsABijection : Obligations.QuarterRoundIsABijection := by
  have line16 := quarterLine_injective (n := 16) (by decide)
  have line12 := quarterLine_injective (n := 12) (by decide)
  have line8 := quarterLine_injective (n := 8) (by decide)
  have line7 := quarterLine_injective (n := 7) (by decide)
  rw [Obligations.QuarterRoundIsABijection, qrf_eq_comp_quarterLines]
  exact (line7.comp (line8.comp (line12.comp line16))).bijective_of_finite

/-! ## QR (R403) -/

/-- Settles O16: QR always writes its result, and the three values are evaluated. -/
theorem qrWritesTheFourQuarterRoundRegisters : Obligations.QrWritesTheFourQuarterRoundRegisters :=
  ⟨decode_encode .qr, fun _ => exec_of_wrote (i := .qr) rfl, by decide, by decide, by decide, qrf_source_vector⟩

end Sys2Proof.Machine
end

section
/-! PROOFS. The quarter round in place on a vector (spec/40_quarter_round.md R402, R404): the words it writes, QRW, and that
quarter rounds on disjoint index sets commute (spec/42_block_function.md R449). -/

namespace Sys2Proof.Machine

/-! ## The words of the result (R402) -/

section
variable (v : Words16) (x y z w i : Fin 16)

/-- Each word of the result, whatever the indices: the last of the four writes that hits it, or the old word. -/
theorem getElem_qrwf : (qrwf v x y z w)[i] =
    if w = i then (qrf v[x] v[y] v[z] v[w]).2.2.2 else if z = i then (qrf v[x] v[y] v[z] v[w]).2.2.1
    else if y = i then (qrf v[x] v[y] v[z] v[w]).2.1 else if x = i then (qrf v[x] v[y] v[z] v[w]).1 else v[i] := by
  simp only [qrwf, Fin.getElem_fin, Vector.getElem_set, Fin.val_inj]

variable {v x y z w i}

theorem getElem_qrwf_of_notMem (h : i ∉ [x, y, z, w]) : (qrwf v x y z w)[i] = v[i] := by
  simp only [List.mem_cons, List.not_mem_nil, or_false, not_or] at h
  obtain ⟨hx, hy, hz, hw⟩ := h
  rw [getElem_qrwf, if_neg (Ne.symm hw), if_neg (Ne.symm hz), if_neg (Ne.symm hy), if_neg (Ne.symm hx)]

/-- The four words at distinct indices are the quarter round of the old words there. -/
theorem getElem_qrwf_of_nodup (h : [x, y, z, w].Nodup) :
    ((qrwf v x y z w)[x], (qrwf v x y z w)[y], (qrwf v x y z w)[z], (qrwf v x y z w)[w]) =
      qrf v[x] v[y] v[z] v[w] := by
  simp only [List.nodup_cons, List.mem_cons, List.not_mem_nil, or_false, not_or] at h
  obtain ⟨⟨hxy, hxz, hxw⟩, ⟨hyz, hyw⟩, hzw, -⟩ := h
  simp only [getElem_qrwf, Ne.symm hxy, Ne.symm hxz, Ne.symm hxw, Ne.symm hyz, Ne.symm hyw, Ne.symm hzw, if_true, if_false]

/-- A word of the result depends on the old word there and on the words at the four indices only. -/
theorem getElem_qrwf_congr {u : Words16} (hi : u[i] = v[i]) (h : ∀ j ∈ [x, y, z, w], u[j] = v[j]) :
    (qrwf u x y z w)[i] = (qrwf v x y z w)[i] := by
  have hx : u[x] = v[x] := h x (by simp)
  have hy : u[y] = v[y] := h y (by simp)
  have hz : u[z] = v[z] := h z (by simp)
  have hw : u[w] = v[w] := h w (by simp)
  rw [getElem_qrwf, getElem_qrwf, hi, hx, hy, hz, hw]

end

/-- Settles O15, from the words at the four indices and the words elsewhere. -/
theorem quarterRoundInPlaceWritesFourPositions : Obligations.QuarterRoundInPlaceWritesFourPositions :=
  fun _ _ _ _ _ distinct =>
    ⟨getElem_qrwf_of_nodup distinct, fun _ hx hy hz hw => getElem_qrwf_of_notMem (by simp [hx, hy, hz, hw])⟩

/-! ## QRW (R404) -/

theorem exec_qrw_of_nodup {x y z w : Fin 16} (distinct : [x, y, z, w].Nodup) (s : State) : exec (.qrw x y z w) s =
    .next { s with regW := qrwf s.regW x y z w, busy := false, done := true, err := .ok } :=
  exec_of_wrote (i := .qrw x y z w) ⟨distinct, rfl⟩

/-- Settles O17: QRW's word is its encoding, the index check decides between its two outcomes, and the worked example is
evaluated. -/
theorem qrwActsInPlaceOrRefusesItsIndices : Obligations.QrwActsInPlaceOrRefusesItsIndices := by
  refine ⟨fun x y z w s => ⟨decode_encode (.qrw x y z w), fun distinct => ?_, fun repeated => ?_⟩,
    decode_encode (.qrw 2 7 8 13), fun s hs => ?_⟩
  · exact ⟨qrwf s.regW x y z w, exec_qrw_of_nodup distinct s, getElem_qrwf_of_nodup distinct,
      fun _ hi => getElem_qrwf_of_notMem hi⟩
  · exact exec_of_failed (e := .illegalIndex) ⟨x, y, z, w, rfl, repeated⟩
  · rw [exec_qrw_of_nodup (by decide) s, hs]
    rfl

/-! ## Quarter rounds on disjoint index sets (R449) -/

/-- The index set of one quarter round. -/
abbrev IndexSet := Fin 16 × Fin 16 × Fin 16 × Fin 16

def IndexSet.toList (q : IndexSet) : List (Fin 16) := [q.1, q.2.1, q.2.2.1, q.2.2.2]

/-- The quarter round in place at an index set. -/
def quarterRoundAt (v : Words16) (q : IndexSet) : Words16 := qrwf v q.1 q.2.1 q.2.2.1 q.2.2.2

theorem quarterRoundsAt_eq_foldl (l : List IndexSet) (v : Words16) : quarterRoundsAt l v = l.foldl quarterRoundAt v := rfl

theorem getElem_quarterRoundAt_of_notMem {q : IndexSet} {i : Fin 16} (h : i ∉ q.toList) (v : Words16) :
    (quarterRoundAt v q)[i] = v[i] :=
  getElem_qrwf_of_notMem h

/-- Of two quarter rounds on disjoint index sets, each reads what the other leaves unchanged, and a word is written by one
of them at most. -/
theorem quarterRoundAt_comm {p q : IndexSet} (disjoint : p.toList.Disjoint q.toList) (v : Words16) :
    quarterRoundAt (quarterRoundAt v p) q = quarterRoundAt (quarterRoundAt v q) p := by
  have atQ : ∀ j ∈ q.toList, (quarterRoundAt v p)[j] = v[j] :=
    fun _ hq => getElem_quarterRoundAt_of_notMem (fun hp => disjoint hp hq) v
  have atP : ∀ j ∈ p.toList, (quarterRoundAt v q)[j] = v[j] :=
    fun _ hp => getElem_quarterRoundAt_of_notMem (disjoint hp) v
  have agree (i : Fin 16) :
      (quarterRoundAt (quarterRoundAt v p) q)[i] = (quarterRoundAt (quarterRoundAt v q) p)[i] := by
    by_cases hp : i ∈ p.toList
    · rw [getElem_quarterRoundAt_of_notMem (disjoint hp)]
      exact (getElem_qrwf_congr (atP i hp) atP).symm
    · rw [getElem_quarterRoundAt_of_notMem hp]
      exact getElem_qrwf_congr (getElem_quarterRoundAt_of_notMem hp v) atQ
  exact Vector.ext fun k hk => agree ⟨k, hk⟩

/-- Quarter rounds whose indices are all distinct give one result in every order. -/
theorem quarterRoundsAt_perm {l m : List IndexSet} (distinct : (m.flatMap IndexSet.toList).Nodup) (h : l.Perm m)
    (v : Words16) : quarterRoundsAt l v = quarterRoundsAt m v := by
  have : Std.Symm (Function.onFun List.Disjoint IndexSet.toList) := ⟨fun _ _ => List.Disjoint.symm⟩
  have disjoint := (List.nodup_flatMap.mp distinct).2.forall
  rw [quarterRoundsAt_eq_foldl, quarterRoundsAt_eq_foldl]
  refine h.foldl_eq' (fun p hp q hq u => ?_) v
  by_cases same : p = q
  · rw [same]
  · exact quarterRoundAt_comm (disjoint (h.subset hp) (h.subset hq) same) u

/-- Settles O29: the sixteen indices of a round are all distinct, so its quarter rounds commute. -/
theorem quarterRoundsOfOneRoundCommute : Obligations.QuarterRoundsOfOneRoundCommute := by
  have columns : (columnSets.flatMap IndexSet.toList).Nodup := by decide
  have diagonals : (diagonalSets.flatMap IndexSet.toList).Nodup := by decide
  exact ⟨columns, diagonals, fun v =>
    ⟨rfl, fun _ h => quarterRoundsAt_perm columns h v, fun _ h => quarterRoundsAt_perm diagonals h v⟩⟩

end Sys2Proof.Machine
end

section
/-! PROOFS. State initialisation (spec/41_state_init.md): the layout of INITF (R421), INIT (R422), and what S holds after
INIT or BLOCK (R423). -/

namespace Sys2Proof.Machine

/-! ## The layout (R421) -/

section
variable (k : Vector Byte 32) (ctr : Word) (n : Vector Byte 12)

/-- Row 1 and row 2 of the matrix are the key. -/
theorem getElem_initF_key (i : Fin 8) : (initF k ctr n)[4 + i.val] = keyWord k i := by
  fin_cases i <;> rfl

/-- Row 3 of the matrix is the counter, and then the nonce. -/
theorem getElem_initF_nonce (i : Fin 3) : (initF k ctr n)[13 + i.val] = nonceWord n i := by
  fin_cases i <;> rfl

end

/-- Settles O18: the constants and the counter stand where INITF lists them, the key and the nonce word by word. -/
theorem initialStateLayout : Obligations.InitialStateLayout :=
  ⟨fun k ctr n => ⟨rfl, rfl, rfl, rfl, getElem_initF_key k ctr n, rfl, getElem_initF_nonce k ctr n⟩,
    by decide, by decide, by decide, by decide⟩

/-! ## INIT (R422) -/

/-- Settles O19: INIT fails by the first length that is wrong and else writes S, and the worked example is evaluated. -/
theorem initWritesOnlyTheInitialState : Obligations.InitWritesOnlyTheInitialState :=
  ⟨decode_encode .init,
    fun _ hk => exec_of_failed (e := .invalidKeyLength) ⟨.inl rfl, hk⟩,
    fun _ hk hn => exec_of_failed (e := .invalidNonceLength) ⟨.inl rfl, hk, hn⟩,
    fun _ hk hn => exec_of_wrote (i := .init) ⟨hk, hn, rfl⟩,
    by decide⟩

/-! ## What S holds (R423) -/

/-- INIT and BLOCK write INITF of the key, the counter and the nonce into S, and keep all three. -/
theorem Wrote.regS_eq_initF {i : Instr} {s u : State} (h : Wrote i s u) (hi : i = .init ∨ i = .block) :
    u.regS = initF u.keyBytes u.counter u.nonceBytes := by
  obtain rfl | rfl := hi
  · obtain ⟨-, -, rfl⟩ := h
    rfl
  · obtain ⟨-, -, rfl⟩ := h
    rfl

/-- Settles O20: a completion with OK is one whose writes were made, so S has the layout of INITF; the other commands do
not reach S. -/
theorem initialStateInvariantAndItsWriters : Obligations.InitialStateInvariantAndItsWriters := by
  refine ⟨fun i s t hi h ok => ?layout, fun i s t hinit hblock h => ?writers⟩
  case layout =>
    have regS_eq : t.regS = initF t.keyBytes t.counter t.nonceBytes := by
      rcases exec_next_cases h with ⟨u, hu, rfl⟩ | ⟨e, he, rfl⟩
      · exact hu.regS_eq_initF hi
      · exact absurd ok he.ne_ok
    rw [regS_eq]
    exact initialStateLayout.1 t.keyBytes t.counter t.nonceBytes
  case writers =>
    rcases exec_next_cases h with ⟨u, hu, rfl⟩ | ⟨e, -, rfl⟩
    · exact hu.wroteTo.regS_eq hinit hblock
    · rfl

end Sys2Proof.Machine
end

section
/-! PROOFS. Commands issued by the host one after another, and that BLOCK is the composition of the sub-commands
(spec/42_block_function.md R448). -/

namespace Sys2Proof.Machine

/-! ## A command issued and completed -/

/-- What a command writes depends neither on the acceptance of its word nor on what is still to happen. -/
theorem Wrote.accept_setInputs {i : Instr} {s u : State} (h : Wrote i s u) (c : Word) (es : List Event) :
    Wrote i ((s.accept c).setInputs es) ((u.accept c).setInputs es) := by
  cases i with
  | nop | qr | copy | dround | mix | addback => cases h; rfl
  | qrw x y z w => obtain ⟨distinct, rfl⟩ := h; exact ⟨distinct, rfl⟩
  | init | block => obtain ⟨hk, hn, rfl⟩ := h; exact ⟨hk, hn, rfl⟩
  | xor => obtain ⟨hk, hn, fits, rfl⟩ := h; exact ⟨hk, hn, fits, rfl⟩

/-- The host writes the command's word, the core accepts it, and the sequencer's turn performs it. -/
theorem runEvents_commandEvents_cons {i : Instr} {s u : State} (hb : s.busy = false) (h : Wrote i s u) (is : List Instr) :
    runEvents (commandEvents (i :: is)) s = runEvents (commandEvents is) ((u.accept (encode i)).finish .ok) := by
  have turn : step ((s.accept (encode i)).setInputs (.sequencer :: commandEvents is)) =
      exec i ((s.accept (encode i)).setInputs (commandEvents is)) :=
    stepRunsTheDecodedCommand ((s.accept (encode i)).setInputs (.sequencer :: commandEvents is)) i rfl rfl (decode_encode i)
  have completes : exec i ((s.accept (encode i)).setInputs (commandEvents is)) =
      .next (((u.accept (encode i)).finish .ok).setInputs (commandEvents is)) :=
    exec_of_wrote (h.accept_setInputs (encode i) (commandEvents is))
  calc runEvents (commandEvents (i :: is)) s
      = runEvents (.sequencer :: commandEvents is) (s.accept (encode i)) :=
        runEvents_wrBe_cons (r := .cmd) hb trivial (encode i) 0b1111 _
    _ = runEvents (commandEvents is) ((u.accept (encode i)).finish .ok) :=
        runEvents_cons_of_step (turn.trans completes)

/-- From `s` the commands `is`, issued one after another, end in the idle state `t`, whatever the host issues then. -/
def Leads (is : List Instr) (s t : State) : Prop :=
  t.busy = false ∧ ∀ js, runEvents (commandEvents (is ++ js)) s = runEvents (commandEvents js) t

theorem Leads.nil {s : State} (hb : s.busy = false) : Leads [] s s := ⟨hb, fun _ => rfl⟩

theorem Leads.append {is js : List Instr} {s t u : State} (h : Leads is s t) (h' : Leads js t u) : Leads (is ++ js) s u :=
  ⟨h'.1, fun ks => by rw [List.append_assoc, h.2, h'.2]⟩

theorem Leads.runEvents_eq {is : List Instr} {s t : State} (h : Leads is s t) :
    runEvents (commandEvents is) s = .next (t.setInputs []) := by
  rw [← List.append_nil is, h.2]
  rfl

/-- An issued command leaves in S, W and OUT what it writes there. -/
theorem Wrote.exists_leads {i : Instr} {s u : State} (h : Wrote i s u) (hb : s.busy = false) :
    ∃ t, Leads [i] s t ∧ t.regS = u.regS ∧ t.regW = u.regW ∧ t.regOut = u.regOut :=
  ⟨(u.accept (encode i)).finish .ok, ⟨rfl, runEvents_commandEvents_cons hb h⟩, rfl, rfl, rfl⟩

/-! ## The mixing pass (R444, R445) -/

/-- From every idle state the commands leave MIXF of W in W, and S as it was. -/
def Mixes (is : List Instr) : Prop :=
  ∀ s : State, s.busy = false → ∃ t, Leads is s t ∧ t.regS = s.regS ∧ t.regW = mixF s.regW

theorem mixes_mix : Mixes [.mix] := by
  intro s hb
  have wrote : Wrote .mix s (s.setW (mixF s.regW)) := rfl
  obtain ⟨t, mix, regS_eq, regW_eq, -⟩ := wrote.exists_leads hb
  exact ⟨t, mix, by rw [regS_eq, State.setW_regS], by rw [regW_eq, State.setW_regW]⟩

/-- n DROUNDs in sequence are n double rounds of W, and S stays. -/
theorem leads_replicate_dround (n : Nat) {s : State} (hb : s.busy = false) :
    ∃ t, Leads (List.replicate n .dround) s t ∧ t.regS = s.regS ∧ t.regW = drfTimes n s.regW := by
  induction n generalizing s with
  | zero => exact ⟨s, .nil hb, rfl, rfl⟩
  | succ n ih =>
    have wrote : Wrote .dround s (s.setW (drf s.regW)) := rfl
    obtain ⟨t, head, headS, headW, -⟩ := wrote.exists_leads hb
    obtain ⟨u, tail, tailS, tailW⟩ := ih head.1
    refine ⟨u, head.append tail, ?_, ?_⟩
    · rw [tailS, headS, State.setW_regS]
    · rw [tailW, headW, State.setW_regW, drfTimes]

theorem mixes_ten_drounds : Mixes (List.replicate 10 .dround) := by
  intro s hb
  obtain ⟨t, drounds, regS_eq, regW_eq⟩ := leads_replicate_dround 10 hb
  exact ⟨t, drounds, regS_eq, by rw [regW_eq, mixF]⟩

/-! ## BLOCK by its sub-commands (R448) -/

/-- What BLOCK leaves in S, W and OUT for the operands of `s` (R447). -/
def HoldsBlockOf (s t : State) : Prop :=
  t.regS = initF s.keyBytes s.counter s.nonceBytes ∧ t.regW = mixF t.regS ∧ t.regOut = addBack t.regS t.regW

theorem HoldsBlockOf.agree {s t u : State} (ht : HoldsBlockOf s t) (hu : HoldsBlockOf s u) :
    t.regS = u.regS ∧ t.regW = u.regW ∧ t.regOut = u.regOut := by
  obtain ⟨tS, tW, tOut⟩ := ht
  obtain ⟨uS, uW, uOut⟩ := hu
  have sameS : t.regS = u.regS := tS.trans uS.symm
  have sameW : t.regW = u.regW := by rw [tW, uW, sameS]
  exact ⟨sameS, sameW, by rw [tOut, uOut, sameS, sameW]⟩

section
variable {s : State} (hb : s.busy = false) (hk : s.keyLen = 32) (hn : s.nonceLen = 12)
include hb hk hn

theorem leads_block : ∃ t, Leads [.block] s t ∧ HoldsBlockOf s t := by
  obtain ⟨t, block, regS_eq, regW_eq, regOut_eq⟩ := Wrote.exists_leads (i := .block) ⟨hk, hn, rfl⟩ hb
  simp only [State.setS_regS, State.setW_regS, State.setW_regW, State.setOut_regS, State.setOut_regW,
    State.setOut_regOut] at regS_eq regW_eq regOut_eq
  exact ⟨t, block, regS_eq, by rw [regW_eq, regS_eq], by rw [regOut_eq, regS_eq, regW_eq]⟩

/-- INIT and COPY put INITF into S and W, the mixing pass keeps S, and ADDBACK adds the two. -/
theorem leads_init_copy_mixing_addback {mixing : List Instr} (hm : Mixes mixing) :
    ∃ t, Leads ([.init, .copy] ++ mixing ++ [.addback]) s t ∧ HoldsBlockOf s t := by
  obtain ⟨t₁, init, initS, -, -⟩ := Wrote.exists_leads (i := .init) ⟨hk, hn, rfl⟩ hb
  obtain ⟨t₂, copy, copyS, copyW, -⟩ := Wrote.exists_leads (i := .copy) rfl init.1
  obtain ⟨t₃, mixed, mixedS, mixedW⟩ := hm t₂ copy.1
  obtain ⟨t₄, addback, addbackS, addbackW, addbackOut⟩ := Wrote.exists_leads (i := .addback) rfl mixed.1
  simp only [State.setS_regS, State.setW_regS, State.setW_regW, State.setOut_regS, State.setOut_regW,
    State.setOut_regOut] at initS copyS copyW addbackS addbackW addbackOut
  refine ⟨t₄, ((init.append copy).append mixed).append addback, ?_, ?_, ?_⟩
  · rw [addbackS, mixedS, copyS, initS]
  · rw [addbackW, mixedW, addbackS, mixedS, copyS, copyW]
  · rw [addbackOut, addbackS, addbackW]

end

/-- Settles O28: MIX and ten DROUNDs are both the mixing pass, and with either the sequence leaves BLOCK's results. -/
theorem subCommandsComposeToBlock : Obligations.SubCommandsComposeToBlock := by
  intro s hb hk hn
  obtain ⟨b, byBlock, hblock⟩ := leads_block hb hk hn
  obtain ⟨m, byMix, hm⟩ := leads_init_copy_mixing_addback hb hk hn mixes_mix
  obtain ⟨d, byDrounds, hd⟩ := leads_init_copy_mixing_addback hb hk hn mixes_ten_drounds
  exact ⟨_, _, _, byBlock.runEvents_eq, byMix.runEvents_eq, byDrounds.runEvents_eq, hm.agree hblock, hd.agree hblock⟩

end Sys2Proof.Machine
end

section
/-! PROOFS. The block function (spec/42_block_function.md): the double round and MIXF (R441, R442), the five commands of the
family (R443 to R447), and the serialisation of OUT (R450). -/

namespace Sys2Proof.Machine

/-! ## The double round and the word-wise sum (R441, R442) -/

/-- Settles O21: the column round is four quarter rounds and the diagonal round the next four, by definition. -/
theorem doubleRoundIsItsEightQuarterRounds : Obligations.DoubleRoundIsItsEightQuarterRounds :=
  fun _ => rfl

theorem mixF_eq_iterate (v : Words16) : mixF v = drf^[10] v :=
  drfTimes_eq_iterate 10 v

@[simp] theorem getElem_addBack (a b : Words16) (i : Fin 16) : (addBack a b)[i] = a[i] + b[i] := by
  simp [addBack, add32]

theorem getElem_blockF (k : Vector Byte 32) (ctr : Word) (n : Vector Byte 12) (i : Fin 16) :
    (blockF k ctr n)[i] = (initF k ctr n)[i] + (mixF (initF k ctr n))[i] :=
  getElem_addBack _ _ i

/-- Settles O22: ten double rounds are the iterate written out, and BLOCKF is a word-wise sum. -/
theorem blockFunctionIsTenDoubleRoundsAddedBack : Obligations.BlockFunctionIsTenDoubleRoundsAddedBack :=
  ⟨mixF_eq_iterate, getElem_blockF⟩

/-! ## The worked example (R422, R444 to R447) -/

/-- S after INIT, in the example of R422. -/
def exampleInit : Words16 :=
  #v[0x61707865, 0x3320646e, 0x79622d32, 0x6b206574, 0x03020100, 0x07060504, 0x0b0a0908, 0x0f0e0d0c,
     0x13121110, 0x17161514, 0x1b1a1918, 0x1f1e1d1c, 0x00000001, 0x09000000, 0x4a000000, 0x00000000]

/-- W after MIX from there (R445). -/
def exampleMixed : Words16 :=
  #v[0x837778ab, 0xe238d763, 0xa67ae21e, 0x5950bb2f, 0xc4f2d0c7, 0xfc62bb2f, 0x8fa018fc, 0x3f5ec7b7,
     0x335271c2, 0xf29489f3, 0xeabda8fc, 0x82e46ebd, 0xd19c12b4, 0xb04e16de, 0x9e83d0cb, 0x4e3c50a2]

/-- OUT after ADDBACK of the two (R446), the source's output state. -/
def exampleOut : Words16 :=
  #v[0xe4e7f110, 0x15593bd1, 0x1fdd0f50, 0xc47120a3, 0xc7f4d1c7, 0x0368c033, 0x9aaa2204, 0x4e6cd4c3,
     0x466482d2, 0x09aa9f07, 0x05d7c214, 0xa2028bd9, 0xd19c12b5, 0xb94e16de, 0xe883d0cb, 0x4e3c50a2]

theorem mixF_exampleInit : mixF exampleInit = exampleMixed := by decide +kernel

theorem addBack_exampleInit_exampleMixed : addBack exampleInit exampleMixed = exampleOut := by decide +kernel

/-- R447's example from those of INIT, MIX and ADDBACK. -/
theorem blockF_example :
    blockF (Vector.ofFn fun i => BitVec.ofNat 8 i.val) 1 #v[0, 0, 0, 0x09, 0, 0, 0, 0x4a, 0, 0, 0, 0] = exampleOut := by
  obtain ⟨-, -, -, -, initF_example⟩ := initWritesOnlyTheInitialState
  change _ = exampleInit at initF_example
  rw [blockF, initF_example, mixF_exampleInit, addBack_exampleInit_exampleMixed]

/-! ## COPY, DROUND and MIX (R443 to R445) -/

/-- The completion of a command that writes W alone. -/
theorem exec_of_wrote_setW {i : Instr} {s : State} {v : Words16} (h : Wrote i s (s.setW v)) :
    exec i s = .next { s with regW := v, busy := false, done := true, err := .ok } :=
  exec_of_wrote h

/-- Settles O23: COPY's write is S into W. -/
theorem copyCopiesTheInitialState : Obligations.CopyCopiesTheInitialState :=
  ⟨decode_encode .copy, fun _ => exec_of_wrote_setW (i := .copy) rfl⟩

/-- Settles O24: DROUND's write is one double round of W; its two examples are evaluated. -/
theorem droundAppliesOneDoubleRound : Obligations.DroundAppliesOneDoubleRound :=
  ⟨decode_encode .dround, fun _ => exec_of_wrote_setW (i := .dround) rfl, by decide +kernel, by decide +kernel⟩

theorem wrote_mix (s : State) : Wrote .mix s (s.setW (drf^[10] s.regW)) := by
  rw [← mixF_eq_iterate]
  rfl

/-- An issued MIX leaves W as ten issued DROUNDs do, and keeps S and OUT. -/
theorem runEvents_ten_drounds_mix {s : State} (hb : s.busy = false) : ∃ t u,
    runEvents (commandEvents (List.replicate 10 .dround)) s = .next t ∧ runEvents (commandEvents [.mix]) s = .next u ∧
    t.regW = u.regW ∧ u.regS = s.regS ∧ u.regOut = s.regOut := by
  obtain ⟨t, drounds, -, roundsW⟩ := mixes_ten_drounds s hb
  obtain ⟨u, mix, mixS, mixW, mixOut⟩ := (wrote_mix s).exists_leads hb
  rw [State.setW_regS] at mixS
  rw [State.setW_regW, ← mixF_eq_iterate, ← roundsW] at mixW
  rw [State.setW_regOut] at mixOut
  exact ⟨_, _, drounds.runEvents_eq, mix.runEvents_eq, mixW.symm, mixS, mixOut⟩

/-- Settles O25: MIX's write is MIXF of W, which is the iterate and what ten DROUNDs leave. -/
theorem mixAppliesTenDoubleRounds : Obligations.MixAppliesTenDoubleRounds :=
  ⟨decode_encode .mix, fun s => exec_of_wrote_setW (wrote_mix s), fun _ => runEvents_ten_drounds_mix,
    (mixF_eq_iterate exampleInit).symm.trans mixF_exampleInit⟩

/-! ## ADDBACK (R446) -/

theorem exec_addback (s : State) : exec .addback s =
    .next { s with regOut := addBack s.regS s.regW, busy := false, done := true, err := .ok } :=
  exec_of_wrote (i := .addback) rfl

/-- Settles O26: ADDBACK's write is the word-wise sum, each word's on its own. -/
theorem addbackAddsLaneByLane : Obligations.AddbackAddsLaneByLane := by
  refine ⟨decode_encode .addback, fun s => ⟨addBack s.regS s.regW, exec_addback s, fun i => ?lanes⟩,
    fun s t i hS hW h => ?wraps, fun s hS hW => ?worked⟩
  case lanes => rw [getElem_addBack, BitVec.toNat_add]
  case wraps =>
    injection (exec_addback s).symm.trans h with h
    rw [← h, getElem_addBack, hS, hW]
    decide
  case worked =>
    change s.regS = exampleInit at hS
    change s.regW = exampleMixed at hW
    rw [exec_addback, hS, hW, addBack_exampleInit_exampleMixed]
    rfl

/-! ## BLOCK (R447) -/

/-- A BLOCK that completes with OK has left BLOCKF of the key, the counter and the nonce in OUT. -/
theorem regOut_of_exec_block {s t : State} (h : exec .block s = .next t) (ok : t.err = .ok) :
    t.regOut = blockF s.keyBytes s.counter s.nonceBytes := by
  rcases exec_next_cases h with ⟨u, ⟨-, -, rfl⟩, rfl⟩ | ⟨e, he, rfl⟩
  · rfl
  · exact absurd ok he.ne_ok

/-- Settles O27: BLOCK fails by the first length that is wrong and else writes S, W and OUT, OUT being BLOCKF of its three
operands. -/
theorem blockComputesTheBlockFunction : Obligations.BlockComputesTheBlockFunction := by
  refine ⟨decode_encode .block,
    fun _ hk => exec_of_failed (e := .invalidKeyLength) ⟨.inr (.inl rfl), hk⟩,
    fun _ hk hn => exec_of_failed (e := .invalidNonceLength) ⟨.inr (.inl rfl), hk, hn⟩,
    fun s hk hn => ⟨blockF s.keyBytes s.counter s.nonceBytes, exec_of_wrote (i := .block) ⟨hk, hn, rfl⟩,
      getElem_blockF s.keyBytes s.counter s.nonceBytes⟩,
    fun s s' t t' hK hctr hN h h' ok ok' => ?operands, blockF_example, ?firstBytes⟩
  case operands => rw [regOut_of_exec_block h ok, regOut_of_exec_block h' ok', hK, hctr, hN]
  case firstBytes =>
    rw [blockF_example]
    decide

/-! ## The serialisation (R450) -/

theorem getElem?_bytesLe (w : Word) (j : Fin 4) : (bytesLe w)[j.val]? = some (byteLane w j.val) := by
  fin_cases j <;> rfl

/-- Each word's four bytes stand at four times its index. -/
theorem getElem?_flatMap_bytesLe (l : List Word) (i : Nat) (j : Fin 4) :
    (l.flatMap bytesLe)[4 * i + j.val]? = l[i]?.map (byteLane · j.val) := by
  have lane := j.isLt
  induction l generalizing i with
  | nil => rfl
  | cons w l ih =>
    rw [List.flatMap_cons]
    cases i with
    | zero =>
      rw [List.getElem?_append_left (by rw [bytesLe_length]; omega), Nat.mul_zero, Nat.zero_add, getElem?_bytesLe]
      rfl
    | succ i =>
      rw [List.getElem?_append_right (by rw [bytesLe_length]; omega), bytesLe_length,
        show 4 * (i + 1) + j.val - 4 = 4 * i + j.val by omega, ih, List.getElem?_cons_succ]

theorem getElem?_ser (o : Words16) (i : Fin 16) (j : Fin 4) :
    (ser o)[4 * i.val + j.val]? = some (byteLane o[i] j.val) := by
  rw [ser, getElem?_flatMap_bytesLe]
  simp

/-- Settles O30: an idle read of OUTi is OUT[i], whose lanes are the bytes that SER lays out. -/
theorem serialisationIsTheLaneViewOfOut : Obligations.SerialisationIsTheLaneViewOfOut := by
  refine ⟨fun o => ⟨ser_length o, getElem?_ser o⟩, fun s i j hb => ?_⟩
  have read : s.busRead (BitVec.ofNat 11 (0x040 + i.val)) = s.regOut[i] :=
    State.busRead_index_of_idle hb (r := .out i) trivial
  rw [read, getElem?_ser, byteLane]

end Sys2Proof.Machine
end

section
/-! PROOFS. The keystream XOR (spec/43_keystream_xor.md): CHACHAF byte by byte (R471, R478), what XOR makes of DBUF
(R473 to R475, R477), and its chunks done in place in any order (R477, R614). -/

namespace Sys2Proof.Machine

/-! ## CHACHAF byte by byte (R471) -/

section
variable (k : Vector Byte 32) (c0 : Word) (n : Vector Byte 12)

/-- The keystream byte of position p: byte p mod 64 of the block of chunk p div 64. -/
def keystreamByte (p : Nat) : Byte := (keystream k c0 n (p / 64)).getD (p % 64) 0

/-- The bytes of d, the first of them at position b of the message, each XORed with its keystream byte. -/
def cipherAt (b : Nat) (d : List Byte) : List Byte := d.mapIdx fun i x => x ^^^ keystreamByte k c0 n (i + b)

theorem getElem?_keystream (p : Nat) :
    (keystream k c0 n (p / 64))[p % 64]? = some (keystreamByte k c0 n p) := by
  have inBlock : p % 64 < (keystream k c0 n (p / 64)).length := by rw [keystream_length]; omega
  rw [keystreamByte, List.getD_eq_getElem _ _ inBlock, List.getElem?_eq_getElem inBlock]

theorem cipherAt_nil (b : Nat) : cipherAt k c0 n b [] = [] := rfl

theorem cipherAt_append (b : Nat) (d e : List Byte) :
    cipherAt k c0 n b (d ++ e) = cipherAt k c0 n b d ++ cipherAt k c0 n (d.length + b) e := by
  simp only [cipherAt, List.mapIdx_append, Nat.add_assoc]

theorem getElem?_cipherAt (b : Nat) (d : List Byte) (p : Nat) :
    (cipherAt k c0 n b d)[p]? = d[p]?.map (· ^^^ keystreamByte k c0 n (p + b)) :=
  List.getElem?_mapIdx

theorem chunkOut_eq_cipherAt (d : List Byte) (j : Nat) :
    chunkOut k c0 n d j = cipherAt k c0 n (64 * j) ((d.drop (64 * j)).take 64) := by
  refine List.ext_getElem? fun i => ?_
  rw [getElem?_cipherAt, chunkOut, xorBytes, List.getElem?_zipWith]
  by_cases hi : i < 64
  · have key := getElem?_keystream k c0 n (i + 64 * j)
    rw [show (i + 64 * j) / 64 = j by omega, show (i + 64 * j) % 64 = i by omega] at key
    rw [key]
    cases ((d.drop (64 * j)).take 64)[i]? <;> rfl
  · rw [List.getElem?_eq_none (by rw [List.length_take]; omega)]
    rfl

/-- The first m chunks are the cipher of the first 64m bytes. -/
theorem flatMap_chunkOut_eq_cipherAt (d : List Byte) (m : Nat) :
    (List.range m).flatMap (chunkOut k c0 n d) = cipherAt k c0 n 0 (d.take (64 * m)) := by
  induction m with
  | zero => rfl
  | succ m ih =>
    rw [List.range_succ, List.flatMap_append, List.flatMap_singleton, ih, chunkOut_eq_cipherAt,
      show 64 * (m + 1) = 64 * m + 64 by omega, List.take_add, cipherAt_append]
    by_cases full : 64 * m ≤ d.length
    · rw [List.length_take_of_le full, Nat.add_zero]
    · rw [List.drop_of_length_le (by omega), List.take_nil, cipherAt_nil, cipherAt_nil]

theorem chachaF_eq_cipherAt (d : List Byte) : chachaF k c0 n d = cipherAt k c0 n 0 d := by
  rw [chachaF, flatMap_chunkOut_eq_cipherAt, List.take_of_length_le (by rw [chunkCount]; omega)]

theorem getElem?_chachaF (d : List Byte) (p : Nat) :
    (chachaF k c0 n d)[p]? = d[p]?.map (· ^^^ keystreamByte k c0 n p) := by
  rw [chachaF_eq_cipherAt, getElem?_cipherAt, Nat.add_zero]

/-- Whole blocks done are blocks added to the counter (R478). -/
theorem keystreamByte_add {b : Nat} (hb : 64 ∣ b) (p : Nat) :
    keystreamByte k c0 n (p + b) = keystreamByte k (add32 c0 (BitVec.ofNat 32 (b / 64))) n p := by
  have counter : add32 c0 (BitVec.ofNat 32 ((p + b) / 64)) =
      add32 (add32 c0 (BitVec.ofNat 32 (b / 64))) (BitVec.ofNat 32 (p / 64)) := by
    rw [Nat.add_div_of_dvd_left hb, BitVec.ofNat_add, add32, add32, add32, BitVec.add_assoc,
      BitVec.add_comm (BitVec.ofNat 32 (p / 64))]
  rw [keystreamByte, keystreamByte, keystream, keystream, counter, show (p + b) % 64 = p % 64 by omega]

theorem cipherAt_eq_chachaF {b : Nat} (hb : 64 ∣ b) (d : List Byte) :
    cipherAt k c0 n b d = chachaF k (add32 c0 (BitVec.ofNat 32 (b / 64))) n d := by
  simp only [chachaF_eq_cipherAt, cipherAt, keystreamByte_add k c0 n hb, Nat.add_zero]

end

/-- Settles O31: CHACHAF is the bytewise cipher, so it keeps the length and its byte p takes keystream byte p. -/
theorem cipherXorsEachByteWithItsKeystreamByte : Obligations.CipherXorsEachByteWithItsKeystreamByte := by
  refine fun k c0 n d => ⟨chachaF_length k c0 n d, fun p x hx => ⟨keystreamByte k c0 n p, ?_, ?_⟩⟩
  · exact getElem?_keystream k c0 n p
  · rw [getElem?_chachaF, hx, Option.map_some]

/-- Settles O36: the bytewise cipher of the second piece starts at the first one's length, which is whole blocks. -/
theorem messagesSplitAtBlockBoundaries : Obligations.MessagesSplitAtBlockBoundaries := by
  intro k c0 n d e hd
  rw [chachaF_eq_cipherAt, cipherAt_append, ← chachaF_eq_cipherAt, Nat.add_zero, cipherAt_eq_chachaF k c0 n hd]

/-! ## What XOR makes of DBUF (R473, R474) -/

/-- What byte p of DBUF becomes when XOR transforms it. -/
def State.cipherByte (s : State) (p : Nat) : Byte :=
  s.memRead p ^^^ keystreamByte s.keyBytes s.counter s.nonceBytes p

/-- The state XOR has written, before its completion sets STATUS. -/
def State.xored (s : State) : State :=
  s.memWriteFrom 0 (chachaF s.keyBytes s.counter s.nonceBytes s.dataBytes)

theorem State.getElem?_dataBytes (s : State) (p : Nat) :
    s.dataBytes[p]? = if p < s.len.toNat then some (s.memRead p) else none := by
  rw [State.dataBytes, List.getElem?_map]
  split_ifs with hp
  · rw [List.getElem?_range hp, Option.map_some]
  · rw [List.getElem?_eq_none (by rw [List.length_range]; omega), Option.map_none]

theorem State.read_xored (s : State) (p : Nat) :
    s.xored.dbuf.read p = if p < s.len.toNat then some (s.cipherByte p) else s.dbuf.read p := by
  rw [State.xored, State.memWriteFrom_dbuf, Memory.read_writeFrom, chachaF_length, State.dataBytes_length, Nat.zero_add,
    Nat.sub_zero, getElem?_chachaF, s.getElem?_dataBytes]
  by_cases hp : p < s.len.toNat
  · rw [if_pos ⟨Nat.zero_le p, hp⟩, if_pos hp, if_pos hp]
    rfl
  · rw [if_neg (mt And.right hp), if_neg hp]

theorem State.memRead_xored (s : State) (p : Nat) :
    s.xored.memRead p = if p < s.len.toNat then s.cipherByte p else s.memRead p := by
  rw [State.memRead, s.read_xored]
  split_ifs <;> rfl

theorem exec_xor {s : State} (hk : s.keyLen = 32) (hn : s.nonceLen = 12) (hl : s.len.toNat ≤ s.dbufBytes) :
    exec .xor s = .next (s.xored.finish .ok) :=
  exec_of_wrote (i := .xor) ⟨hk, hn, hl, rfl⟩

/-- An XOR that completes with OK has transformed the first LEN bytes. -/
theorem memRead_of_exec_xor {s t : State} (h : exec .xor s = .next t) (ok : t.err = .ok) (p : Nat) :
    t.memRead p = if p < s.len.toNat then s.cipherByte p else s.memRead p := by
  rcases exec_next_cases h with ⟨u, ⟨-, -, -, rfl⟩, rfl⟩ | ⟨e, he, rfl⟩
  · exact s.memRead_xored p
  · exact absurd ok he.ne_ok

/-- XORing with the same keystream byte again gives the byte back. -/
theorem State.cipherByte_xored (s : State) {p : Nat} (hp : p < s.len.toNat) :
    s.xored.cipherByte p = s.memRead p := by
  rw [State.cipherByte, s.memRead_xored, if_pos hp, State.cipherByte, BitVec.xor_assoc]
  exact (congrArg _ BitVec.xor_self).trans BitVec.xor_zero

theorem State.memRead_xored_xored (s : State) (p : Nat) : s.xored.xored.memRead p = s.memRead p := by
  have same_len : s.xored.len = s.len := rfl
  rw [State.memRead_xored, same_len]
  split_ifs with hp
  · exact s.cipherByte_xored hp
  · rw [s.memRead_xored, if_neg hp]

/-- Settles O33: the second XOR finds the same operands, so each byte of DBUF takes its keystream byte twice. -/
theorem xorTwiceRestoresTheBuffer : Obligations.XorTwiceRestoresTheBuffer :=
  fun s hk hn hl => ⟨_, _, exec_xor hk hn hl, exec_xor (s := s.xored.finish .ok) hk hn hl, s.memRead_xored_xored⟩

/-- The keystream byte of a position depends on the counter only through that of its block. -/
theorem keystreamByte_congr {k : Vector Byte 32} {c c' : Word} {n : Vector Byte 12} {p : Nat}
    (h : add32 c (BitVec.ofNat 32 (p / 64)) = add32 c' (BitVec.ofNat 32 (p / 64))) :
    keystreamByte k c n p = keystreamByte k c' n p := by
  rw [keystreamByte, keystreamByte, keystream, keystream, h]

/-- Settles O34: the result byte is the input byte XORed with its keystream byte, and the two states agree on both. -/
theorem xorResultByteDependsOnlyOnItsInputs : Obligations.XorResultByteDependsOnlyOnItsInputs := by
  intro s s' t t' p hK hN hctr hbyte hp hp' h h' ok ok'
  rw [memRead_of_exec_xor h ok, memRead_of_exec_xor h' ok', if_pos hp, if_pos hp', State.cipherByte, State.cipherByte,
    hbyte, hK, hN, keystreamByte_congr hctr]

/-! ## The worked example "Sunscreen" (R473) -/

/-- K of the example. -/
def sunscreenKey : Vector Byte 32 := Vector.ofFn fun i => BitVec.ofNat 8 i.val

/-- N of the example. -/
def sunscreenNonce : Vector Byte 12 := #v[0, 0, 0, 0, 0, 0, 0, 0x4a, 0, 0, 0, 0]

/-- "Ladies a", with which the example's text begins. -/
def sunscreenStart : List Byte := [0x4c, 0x61, 0x64, 0x69, 0x65, 0x73, 0x20, 0x61]

/-- The example's first eight result bytes, evaluated. -/
theorem chachaF_sunscreenStart : chachaF sunscreenKey 1 sunscreenNonce sunscreenStart =
    [0x6e, 0x2e, 0x35, 0x9a, 0x25, 0x68, 0xf9, 0x80] := by decide +kernel

/-- The first bytes of DBUF after XOR are the cipher of what stood there. -/
theorem map_memRead_of_exec_xor {s t : State} (h : exec .xor s = .next t) (ok : t.err = .ok) {d : List Byte}
    (hlen : d.length ≤ s.len.toNat) (hd : ∀ (p : Nat) (hp : p < d.length), s.memRead p = d[p]) :
    (List.range d.length).map t.memRead = chachaF s.keyBytes s.counter s.nonceBytes d := by
  refine List.ext_getElem? fun p => ?_
  rw [List.getElem?_map, getElem?_chachaF]
  by_cases hp : p < d.length
  · rw [List.getElem?_range hp, List.getElem?_eq_getElem hp, Option.map_some, Option.map_some,
      memRead_of_exec_xor h ok, if_pos (hp.trans_le hlen), State.cipherByte, hd p hp]
  · rw [List.getElem?_eq_none (by rw [List.length_range]; omega), List.getElem?_eq_none (by omega)]
    rfl

/-- Settles O32: XOR fails by the first check that does not hold, and else makes of DBUF what `State.xored` reads as. -/
theorem xorChecksItsLengthsThenTransformsInPlace : Obligations.XorChecksItsLengthsThenTransformsInPlace := by
  refine ⟨decode_encode .xor,
    fun _ hk => exec_of_failed (e := .invalidKeyLength) ⟨.inr (.inr rfl), hk⟩,
    fun _ hk hn => exec_of_failed (e := .invalidNonceLength) ⟨.inr (.inr rfl), hk, hn⟩,
    fun _ hk hn hl => exec_of_failed (e := .invalidDataLength) ⟨rfl, hk, hn, hl⟩,
    fun s hk hn hl => ⟨s.xored.dbuf, exec_xor hk hn hl, s.memRead_xored⟩,
    fun s t hK hk hN hn hctr hlen hcap text h => ?_⟩
  have key : s.keyBytes = sunscreenKey := Vector.ext fun i hi => (hK ⟨i, hi⟩).trans (by simp [sunscreenKey])
  have len : s.len.toNat = 114 := congrArg BitVec.toNat hlen
  have ok : t.err = .ok := by
    injection (exec_xor hk hn (len.trans_le hcap)).symm.trans h with h
    rw [← h, State.finish_err]
  have start (p : Nat) (hp : p < sunscreenStart.length) : s.memRead p = sunscreenStart[p] := by
    refine text p _ ?_
    change p < 8 at hp
    interval_cases p <;> rfl
  have bytes := map_memRead_of_exec_xor h ok (d := sunscreenStart) (by rw [len]; decide) start
  rwa [key, hctr, show s.nonceBytes = sunscreenNonce from hN, chachaF_sunscreenStart] at bytes

/-! ## The chunks one by one, in place, in any order (R477, R614) -/

theorem State.read_xorChunk (s : State) (j p : Nat) :
    (s.xorChunk j).dbuf.read p =
      if p / 64 = j ∧ p < s.len.toNat then some (s.cipherByte p) else s.dbuf.read p := by
  rw [State.xorChunk, State.memWriteFrom_dbuf, Memory.read_writeFrom, chunkOut_length, State.dataBytes_length]
  by_cases hp : p / 64 = j ∧ p < s.len.toNat
  · obtain ⟨rfl, inData⟩ := hp
    have byte : (chunkOut s.keyBytes s.counter s.nonceBytes s.dataBytes (p / 64))[p - 64 * (p / 64)]? =
        some (s.cipherByte p) := by
      rw [chunkOut_eq_cipherAt, getElem?_cipherAt, List.getElem?_take_of_lt (by omega), List.getElem?_drop,
        show 64 * (p / 64) + (p - 64 * (p / 64)) = p by omega, show p - 64 * (p / 64) + 64 * (p / 64) = p by omega,
        s.getElem?_dataBytes, if_pos inData]
      rfl
    rw [if_pos (by omega), if_pos ⟨rfl, inData⟩, byte]
  · rw [if_neg (by omega), if_neg hp]

/-- Chunks done in place change nothing but DBUF. -/
theorem foldl_xorChunk_eq_with_dbuf (l : List Nat) (s : State) :
    l.foldl State.xorChunk s = { s with dbuf := (l.foldl State.xorChunk s).dbuf } := by
  induction l generalizing s with
  | nil => rfl
  | cons j l ih => exact ih (s.xorChunk j)

theorem dbufWf_foldl_xorChunk (l : List Nat) {s : State} (h : s.dbuf.wf) : (l.foldl State.xorChunk s).dbuf.wf := by
  induction l generalizing s with
  | nil => exact h
  | cons j l ih => exact ih (s := s.xorChunk j) (Memory.wf_writeFrom _ _ s.dbuf h)

/-- Chunks without repetition: each byte of one of them is transformed once, the others stay. -/
theorem read_foldl_xorChunk {l : List Nat} (hl : l.Nodup) (s : State) (p : Nat) :
    (l.foldl State.xorChunk s).dbuf.read p =
      if p / 64 ∈ l ∧ p < s.len.toNat then some (s.cipherByte p) else s.dbuf.read p := by
  induction l generalizing s with
  | nil => simp
  | cons j l ih =>
    obtain ⟨fresh, hl⟩ := List.nodup_cons.mp hl
    have same_len : (s.xorChunk j).len = s.len := rfl
    rw [List.foldl_cons, ih hl, same_len]
    by_cases hj : p / 64 = j
    · rw [if_neg (fun h => fresh (hj ▸ h.1)), s.read_xorChunk]
      simp [hj]
    · have read := s.read_xorChunk j p
      rw [if_neg (fun h => hj h.1)] at read
      have byte : (s.xorChunk j).cipherByte p = s.cipherByte p := by
        rw [State.cipherByte, State.memRead, read]
        rfl
      rw [read, byte]
      simp [hj]

/-- The chunks of the data in any order leave exactly XOR's buffer. -/
theorem foldl_xorChunk_eq_xored {s : State} {l : List Nat} (hs : s.dbuf.wf)
    (hl : l.Perm (List.range (chunkCount s.len.toNat))) : l.foldl State.xorChunk s = s.xored := by
  have same_dbuf : (l.foldl State.xorChunk s).dbuf = s.xored.dbuf := by
    refine Memory.ext_of_wf (dbufWf_foldl_xorChunk l hs) (Memory.wf_writeFrom _ _ s.dbuf hs) fun p => ?_
    have covered : p / 64 ∈ l ∧ p < s.len.toNat ↔ p < s.len.toNat := by
      rw [hl.mem_iff, List.mem_range, chunkCount]
      omega
    rw [read_foldl_xorChunk (hl.nodup_iff.mpr List.nodup_range), s.read_xored]
    simp only [covered]
  rw [foldl_xorChunk_eq_with_dbuf, same_dbuf]
  rfl

/-- Settles O35: in any order the chunks leave what XOR writes, and the completion is the same. -/
theorem blockOrderOfXorIsNotObservable : Obligations.BlockOrderOfXorIsNotObservable := by
  intro s l ⟨canonical, _⟩ hk hn fits hl
  rw [foldl_xorChunk_eq_xored canonical hl]
  exact exec_xor hk hn fits

end Sys2Proof.Machine
end

section
/-! PROOFS. The system commands (spec/44_system.md): NOP (R491) and the completion of an illegal command word (R492), as the
host sees both in STATUS and CMD. -/

namespace Sys2Proof.Machine

/-! ## STATUS after a completion -/

/-- BUSY reads 0 and DONE 1, so with OVR = 0 the completion's code alone decides STATUS (R116). -/
theorem State.statusWord_finish {s : State} (hovr : s.ovr = false) (e : ErrCode) :
    (s.finish e).statusWord = 0x00000002#32 ||| ((errBits e).setWidth 32 <<< 4) := by
  rw [State.statusWord, State.finish_busy, State.finish_done, State.finish_err, State.finish_ovr, hovr]
  cases e <;> rfl

/-! ## NOP (R491) -/

theorem exec_nop (s : State) : exec .nop s = .next (s.finish .ok) := exec_of_wrote (i := .nop) rfl

/-- Issuing a command on an idle core is its acceptance (R210). -/
theorem runEvents_command {s : State} (hb : s.busy = false) (i : Instr) :
    runEvents [Asm.command i] s = .next ((s.accept (encode i)).setInputs []) :=
  runEvents_wrBe_cons (r := .cmd) hb trivial (encode i) 0b1111 []

/-- Settles O37: NOP writes nothing before its completion, and its acceptance sets BUSY and clears ERR. -/
theorem nopOnlyCompletes : Obligations.NopOnlyCompletes := by
  refine ⟨decode_encode .nop, exec_nop, fun s t h hovr => ?_, fun s hb => ⟨_, runEvents_command hb .nop, rfl, rfl⟩, rfl, rfl⟩
  injection (exec_nop s).symm.trans h with h
  rw [← h, State.statusWord_finish hovr]
  rfl

/-! ## Reads of an idle core (R205) -/

theorem State.hostRead_index_of_idle {s : State} (hb : s.busy = false) {r : Reg} (hr : r.inWindow s.params) :
    s.hostRead r.index = s.respond (s.readReg r) := by
  have closed : ¬ s.readIsOpen r.index = true := fun h => absurd (hb.symm.trans ((s.readIsOpen_iff _).mp h).1) (by decide)
  rw [State.hostRead, if_neg closed, State.busRead_index_of_idle hb hr]

theorem State.readReg_setInputs (s : State) (es : List Event) (r : Reg) : (s.setInputs es).readReg r = s.readReg r := by
  cases r <;> rfl

/-- A read of a mapped register of an idle core, served first, gives the host that register (R205). -/
theorem runEvents_rd_cons {s : State} (hb : s.busy = false) {r : Reg} (hr : r.inWindow s.params) (es : List Event) :
    runEvents (Asm.rd r :: es) s = runEvents es (s.respond (s.readReg r)) := by
  refine runEvents_cons_of_step ?_
  rw [step_of_host (tr := .read r.index) (rest := es) rfl, hostTransaction, State.popInput_setInputs_cons,
    State.hostRead_index_of_idle (s := s.setInputs es) hb hr, State.readReg_setInputs]
  rfl

/-! ## An illegal word (R492) -/

theorem sequencerStep_of_illegal {s : State} (illegal : ∀ i, decode s.pending ≠ .command i) :
    sequencerStep s = .next (s.finish .illegalCommand) := by
  obtain ⟨-, -, completes⟩ := strictDecodeAndItsError
  exact completes s illegal

theorem step_of_illegal {s : State} (hb : s.busy = true) (hn : s.sequencerNext = true)
    (illegal : ∀ i, decode s.pending ≠ .command i) : step s = .next (s.popInput.finish .illegalCommand) :=
  (step_of_sequencerNext hb hn).trans (sequencerStep_of_illegal (s := s.popInput) illegal)

theorem runEvents_sequencer_cons_of_illegal {s : State} (hb : s.busy = true) (illegal : ∀ i, decode s.pending ≠ .command i)
    (es : List Event) : runEvents (.sequencer :: es) s = runEvents es (s.finish .illegalCommand) :=
  runEvents_cons_of_step (step_of_illegal (s := s.setInputs (.sequencer :: es)) hb rfl illegal)

/-- The word is accepted into CMD, fails to decode at the sequencer's turn, and CMD still holds it. -/
theorem runEvents_illegal_rd_cmd {s : State} (hb : s.busy = false) {c : Word} (illegal : ∀ i, decode c ≠ .command i) :
    runEvents [Asm.wr .cmd c, .sequencer, Asm.rd .cmd] s =
      .next ((((s.accept c).finish .illegalCommand).respond c).setInputs []) :=
  calc runEvents [Asm.wr .cmd c, .sequencer, Asm.rd .cmd] s
      = runEvents [.sequencer, Asm.rd .cmd] (s.accept c) := runEvents_wrBe_cons (r := .cmd) hb trivial c 0b1111 _
    _ = runEvents [Asm.rd .cmd] ((s.accept c).finish .illegalCommand) := runEvents_sequencer_cons_of_illegal rfl illegal _
    _ = _ := runEvents_rd_cons (r := .cmd) rfl trivial []

/-- Every poll before the completion reads the busy STATUS; the last read of `wait` is STATUS after it (R308). -/
theorem runEvents_wait_of_illegal {s : State} (hb : s.busy = true) (illegal : ∀ i, decode s.pending ≠ .command i)
    (polls : Nat) : runEvents (Asm.wait polls) s = .next ((s.finish .illegalCommand).setOutside []
      ((s.finish .illegalCommand).statusWord :: (List.replicate polls s.statusWord ++ s.responses))) := by
  rw [Asm.wait, runEvents_polls, runEvents_sequencer_cons_of_illegal (s := s.setOutside [] _) hb illegal,
    runEvents_rd_status_cons]
  rfl

/-- OP 0xA is reserved (R303). -/
theorem decode_0000000A_ne_command (i : Instr) : decode 0x0000000A ≠ .command i := by
  have reserved : decode 0x0000000A = .illegal .reservedOpcode := by decide
  rw [reserved]
  exact Decoded.noConfusion

/-- Settles O11: an illegal word completes with its error, CMD reads the word back, and `wait` ends on the STATUS of that
completion. -/
theorem illegalWordCompletesWithItsError : Obligations.IllegalWordCompletesWithItsError := by
  refine ⟨fun s => step_of_illegal, fun c illegal s hb => ⟨_, runEvents_illegal_rd_cmd hb illegal, ?readBack⟩,
    fun s polls hb hovr => ?worked⟩
  case readBack => rw [hb]; rfl
  case worked =>
    have accepted := runEvents_wrBe_cons (r := .cmd) hb trivial 0x0000000A 0b1111 (Asm.wait polls)
    have waited := runEvents_wait_of_illegal (s := s.accept 0x0000000A) rfl decode_0000000A_ne_command polls
    have status := State.statusWord_finish (s := s.accept 0x0000000A) hovr .illegalCommand
    exact ⟨_, accepted.trans waited, congrArg some status⟩

end Sys2Proof.Machine
end

section
/-! PROOFS. Completion and errors (spec/60_exceptions.md R601 to R606): no step stops, every completion ends idle with one
code, the first in R604's order that applies, and an error makes no other write. -/

namespace Sys2Proof.Machine

/-! ## Every accepted word completes (R601) -/

/-- A completion ends idle with DONE set, and makes no other write unless it succeeds (R603). -/
theorem sequencerStep_precise (s : State) : ∃ t, sequencerStep s = .next t ∧ t.busy = false ∧ t.done = true ∧
    (t.err ≠ .ok → t = s.finish t.err) := by
  obtain ⟨i, -, hx⟩ | ⟨why, -, hx⟩ := sequencerStep_cases s
  · obtain ⟨u, -, wrote⟩ | ⟨e, -, failed⟩ := exec_outcome i s
    · exact ⟨_, hx.trans wrote, rfl, rfl, fun error => absurd rfl error⟩
    · exact ⟨_, hx.trans failed, rfl, rfl, fun _ => rfl⟩
  · exact ⟨_, hx, rfl, rfl, fun _ => rfl⟩

/-- Settles O12, by what the step serves. -/
theorem everyStepHasANextState : Obligations.EveryStepHasANextState := by
  intro s
  obtain hn | ⟨tr, rest, hin⟩ | ⟨rest, hin⟩ := s.inputs_cases
  · cases hb : s.busy with
    | true =>
      obtain ⟨t, hx, -⟩ := sequencerStep_precise s.popInput
      exact ⟨t, (step_of_sequencerNext hb hn).trans hx⟩
    | false => exact ⟨_, step_of_sequencerNext_idle hb hn⟩
  · exact ⟨_, step_of_host hin⟩
  · exact ⟨_, step_of_reset hin⟩

/-- With nothing but the sequencer's turn to come, a busy core's run is its completion. -/
theorem runEvents_sequencer {s : State} (hb : s.busy = true) :
    runEvents [.sequencer] s = sequencerStep (s.setInputs []) := by
  obtain ⟨t, hx, -⟩ := sequencerStep_precise (s.setInputs [])
  have served : step (s.setInputs [.sequencer]) = .next t :=
    (step_of_sequencerNext (s := s.setInputs [.sequencer]) hb rfl).trans hx
  exact (run_succ_of_step Sys2Proof.core (x := s.setInputs [.sequencer]) served 0).trans hx.symm

/-- Settles O38: a failed completion only sets STATUS, and before it acceptance wrote only STATUS, CMD and `pending`. -/
theorem everyCommandCompletesAndErrorsArePrecise : Obligations.EveryCommandCompletesAndErrorsArePrecise := by
  refine ⟨sequencerStep_precise, fun s c be hb => ?_⟩
  obtain ⟨t, hx, -, -, precise⟩ := sequencerStep_precise ((s.accept c).setInputs [])
  refine ⟨t, ?_, fun failed => ?_⟩
  · exact (runEvents_wrBe_cons (r := .cmd) hb trivial c be _).trans ((runEvents_sequencer rfl).trans hx)
  · rw [precise failed]
    rfl

/-! ## The code of a completion (R602, R604) -/

/-- The first error, in R604's order, that applies to a command in this state. -/
def State.firstError (s : State) (i : Instr) : ErrCode :=
  if i.wf = false then .illegalIndex
  else if usesKey i = true ∧ s.keyLen ≠ 32 then .invalidKeyLength
  else if usesKey i = true ∧ s.nonceLen ≠ 12 then .invalidNonceLength
  else if i = .xor ∧ s.dbufBytes < s.len.toNat then .invalidDataLength
  else .ok

theorem State.firstError_of_wrote {i : Instr} {s u : State} (h : Wrote i s u) : s.firstError i = .ok := by
  have wf := h.wf
  cases i with
  | nop | qr | qrw | copy | dround | mix | addback => simp [State.firstError, wf, usesKey]
  | init | block => obtain ⟨hk, hn, -⟩ := h; simp [State.firstError, wf, hk, hn]
  | xor => obtain ⟨hk, hn, hl, -⟩ := h; simp [State.firstError, wf, hk, hn, hl]

theorem wf_and_usesKey {i : Instr} (h : i = .init ∨ i = .block ∨ i = .xor) : i.wf = true ∧ usesKey i = true := by
  obtain rfl | rfl | rfl := h <;> exact ⟨rfl, rfl⟩

theorem State.firstError_of_failed {i : Instr} {s : State} {e : ErrCode} (h : Failed i s e) : s.firstError i = e := by
  cases e with
  | ok | illegalCommand => exact absurd h id
  | illegalIndex =>
    obtain ⟨x, y, z, w, rfl, repeated⟩ := h
    exact if_pos (decide_eq_false repeated)
  | invalidKeyLength =>
    obtain ⟨hi, hk⟩ := h
    obtain ⟨wf, keyed⟩ := wf_and_usesKey hi
    simp [State.firstError, wf, keyed, show ¬ s.keyLen = 32#8 from hk]
  | invalidNonceLength =>
    obtain ⟨hi, hk, hn⟩ := h
    obtain ⟨wf, keyed⟩ := wf_and_usesKey hi
    simp [State.firstError, wf, keyed, hk, show ¬ s.nonceLen = 12#8 from hn]
  | invalidDataLength =>
    obtain ⟨rfl, hk, hn, hl⟩ := h
    simp [State.firstError, Instr.wf, hk, hn, hl]

/-- ERR is STATUS[7:4] (R116). -/
theorem State.extractLsb'_statusWord_err (s : State) : s.statusWord.extractLsb' 4 4 = errBits s.err := by
  have layout : ∀ (busy done ovr : Bool) (e : BitVec 4),
      (flagWord busy ||| (flagWord done <<< 1) ||| (e.setWidth 32 <<< 4) ||| (flagWord ovr <<< 8)).extractLsb' 4 4 = e := by
    decide
  exact layout _ _ _ _

/-! ## The conditions of R604 on the bits of a legal word -/

theorem fieldOp_of_decode {c : Word} {i : Instr} (hd : decode c = .command i) : (fieldOp c).toNat = i.opcode := by
  obtain ⟨-, -, op, -⟩ := encode_eq_iff.mp (encode_eq_of_decode hd)
  exact op

theorem usesKey_iff_opcode (i : Instr) : usesKey i = true ↔ i.opcode = 3 ∨ i.opcode = 8 ∨ i.opcode = 9 := by
  cases i <;> simp [usesKey, Instr.opcode]

theorem eq_xor_iff_opcode (i : Instr) : i = .xor ↔ i.opcode = 9 := by
  cases i <;> simp [Instr.opcode]

/-- Only QRW can be ill formed, and it is when two of its index fields agree (R404). -/
theorem wf_eq_false_iff_of_decode {c : Word} {i : Instr} (hd : decode c = .command i) :
    i.wf = false ↔ i.opcode = 2 ∧ ¬ [fieldX c, fieldY c, fieldZ c, fieldWI c].Nodup := by
  cases i with
  | qrw x y z w =>
    obtain ⟨rsv0, rsv1, -, -⟩ := encode_eq_iff.mp (encode_eq_of_decode hd)
    have fields := decode_of_op_eq_two rsv0 rsv1 (BitVec.eq_of_toNat_eq (fieldOp_of_decode hd))
    obtain ⟨rfl, rfl, rfl, rfl⟩ := Instr.qrw.inj (Decoded.command.inj (hd.symm.trans fields))
    have distinct : [(fieldX c).toFin, (fieldY c).toFin, (fieldZ c).toFin, (fieldWI c).toFin].Nodup ↔
        [fieldX c, fieldY c, fieldZ c, fieldWI c].Nodup :=
      List.nodup_map_iff (f := BitVec.toFin) (l := [fieldX c, fieldY c, fieldZ c, fieldWI c]) fun _ _ => BitVec.eq_of_toFin_eq
    exact decide_eq_false_iff_not.trans ((not_congr distinct).trans (and_iff_right rfl).symm)
  | _ => simp [Instr.wf, Instr.opcode]

theorem sequencerStep_err_of_command {s t : State} {i : Instr} (hd : decode s.pending = .command i)
    (h : sequencerStep s = .next t) : t.err = s.firstError i := by
  rw [sequencerStep, hd] at h
  obtain ⟨u, hu, rfl⟩ | ⟨e, he, rfl⟩ := exec_next_cases h
  · exact (State.firstError_of_wrote hu).symm
  · exact (State.firstError_of_failed he).symm

/-- Settles O39: an illegal word reports 4, a legal one the first error of its command, each condition read off the bits. -/
theorem completionCodeIsTheFirstErrorThatApplies : Obligations.CompletionCodeIsTheFirstErrorThatApplies := by
  intro s t h
  have legal_iff := exists_decode_eq_command_iff s.pending
  rw [← BitVec.toNat_inj (x := fieldOp s.pending)] at legal_iff
  rw [State.extractLsb'_statusWord_err]
  by_cases legal : ∃ i, decode s.pending = .command i
  · obtain ⟨i, hd⟩ := legal
    refine Eq.trans ?_ (if_neg (not_not.mpr (legal_iff.mp ⟨i, hd⟩))).symm
    have op := fieldOp_of_decode hd
    have index := wf_eq_false_iff_of_decode hd
    have key := usesKey_iff_opcode i
    have xor := eq_xor_iff_opcode i
    rw [← op] at index key xor
    rw [sequencerStep_err_of_command hd h]
    simp only [State.firstError, apply_ite errBits, index, key, xor]
    rfl
  · have illegal : t = s.finish .illegalCommand := by
      injection (sequencerStep_of_illegal (not_exists.mp legal)).symm.trans h with h
      exact h.symm
    rw [illegal]
    exact (if_pos (mt legal_iff.mpr legal)).symm

end Sys2Proof.Machine
end

section
/-! PROOFS. DONE, the pending bit of the completion interrupt, and the line `irq` (spec/60_exceptions.md R607, R608). -/

namespace Sys2Proof.Machine

/-! ## DONE after a host write -/

/-- Only a write of CMD or STATUS writes DONE. -/
theorem State.writeReg_done (s : State) {r : Reg} (hcmd : r ≠ .cmd) (hstatus : r ≠ .status) (d : Word) (be : BitVec 4) :
    (s.writeReg r d be).done = s.done := by
  cases r <;> simp_all [State.writeReg]

/-- A write of CMD in an idle core is acceptance (R210). -/
theorem State.busWrite_cmd_of_idle {s : State} (hb : s.busy = false) (d : Word) (be : BitVec 4) :
    s.busWrite 1#11 d be = s.accept d :=
  s.busWrite_of_idle hb 1#11 d be

/-- A write that is neither acceptance nor of STATUS leaves DONE alone, lost or taken. -/
theorem State.busWrite_done_of_kept {s : State} {A : BitVec 11} (h1 : ¬ (A = 1#11 ∧ s.busy = false)) (h2 : A ≠ 2#11)
    (d : Word) (be : BitVec 4) : (s.busWrite A d be).done = s.done := by
  obtain ⟨-, cmd_iff, status_iff, -⟩ := regAt_eq_iff_control s.params A
  obtain ⟨-, e⟩ | ⟨taken, e⟩ := s.busWrite_cases A d be
  · rw [e, State.flagOvr_done]
  · rw [e]
    refine s.writeReg_done (fun hr => h1 ⟨cmd_iff.mp hr, ?_⟩) (mt status_iff.mp h2) d be
    have refused : (s.regAt A).writableWhileBusy = false := congrArg Reg.writableWhileBusy hr
    simpa [State.writeIsLost, refused] using taken

theorem State.busWrite_done_iff (s : State) (A : BitVec 11) (d : Word) (be : BitVec 4) :
    (s.busWrite A d be).done = true ↔
      s.done = true ∧ ¬ (A = 2#11 ∧ d.getLsbD 1 = true) ∧ ¬ (A = 1#11 ∧ s.busy = false) := by
  by_cases h1 : A = 1#11 ∧ s.busy = false
  · obtain ⟨rfl, hb⟩ := h1
    simp [State.busWrite_cmd_of_idle hb, hb]
  · by_cases h2 : A = 2#11
    · subst h2
      simp [State.busWrite_status]
    · simp [State.busWrite_done_of_kept h1 h2, h1, h2]

/-! ## DONE after a step -/

/-- The step clears DONE: it serves an acknowledgement, an acceptance, or reset (R607, R703). -/
def State.clearsDone (s : State) : Prop :=
  (∃ data be rest, s.inputs = .host (.write 0x002 data be) :: rest ∧ data.getLsbD 1 = true) ∨
  (∃ data be rest, s.inputs = .host (.write 0x001 data be) :: rest ∧ s.busy = false) ∨
  ∃ rest, s.inputs = .reset :: rest

theorem State.not_clearsDone_of_sequencerNext {s : State} (hn : s.sequencerNext = true) : ¬ s.clearsDone := by
  obtain hin | ⟨rest, hin⟩ := s.sequencerNext_iff.mp hn <;> simp [State.clearsDone, hin]

theorem sequencerStep_done {s t : State} (h : sequencerStep s = .next t) : t.done = true := by
  obtain ⟨t', hx, -, done, -⟩ := sequencerStep_precise s
  injection hx.symm.trans h with same
  exact same ▸ done

/-- DONE is set after a step exactly if a completion set it or it was set and nothing cleared it. -/
theorem step_done_iff {s t : State} (h : step s = .next t) :
    t.done = true ↔ s.busy = true ∧ s.sequencerNext = true ∨ s.done = true ∧ ¬ s.clearsDone := by
  obtain ⟨hb, hin, hx⟩ | ⟨hb, hin, rfl⟩ | ⟨tr, rest, hin, rfl⟩ | ⟨rest, hin, rfl⟩ := step_cases h
  · exact iff_of_true (sequencerStep_done hx) (.inl ⟨hb, s.sequencerNext_iff.mpr hin⟩)
  · simp [hb, State.not_clearsDone_of_sequencerNext (s.sequencerNext_iff.mpr hin)]
  · have waits : s.sequencerNext = false := by rw [State.sequencerNext, hin]
    cases tr with
    | read A => simp [hostTransaction, State.hostRead_eq, State.clearsDone, hin, waits]
    | write A d be => simp [hostTransaction, State.busWrite_done_iff, State.clearsDone, hin, waits]
  · have waits : s.sequencerNext = false := by rw [State.sequencerNext, hin]
    simp [State.clearsDone, hin, waits, State.reset]

/-- Settles O50, from DONE after a step: a step that completes a command clears nothing. -/
theorem doneIsSetByCompletionsAndClearedByTheHost : Obligations.DoneIsSetByCompletionsAndClearedByTheHost := by
  intro s t h
  refine ⟨fun before => ?_, fun before => ?_, rfl⟩
  · simp [step_done_iff h, before]
  · change t.done = false ↔ s.clearsDone
    have exclusive : s.clearsDone → ¬ (s.busy = true ∧ s.sequencerNext = true) := fun clears ⟨_, turn⟩ =>
      State.not_clearsDone_of_sequencerNext turn clears
    rw [← Bool.not_eq_true, step_done_iff h, not_or, not_and_not_right, before]
    exact ⟨fun ⟨_, cleared⟩ => cleared rfl, fun cleared => ⟨exclusive cleared, fun _ => cleared⟩⟩

/-! ## The interrupt line (R608) -/

theorem State.irq_iff (s : State) : s.irq = true ↔ s.done = true ∧ s.doneIe = true := Bool.and_eq_true_iff

/-- No completion touches the enable. -/
theorem sequencerStep_doneIe {s t : State} (h : sequencerStep s = .next t) : t.doneIe = s.doneIe := by
  obtain ⟨i, -, hx⟩ | ⟨why, -, hx⟩ := sequencerStep_cases s
  · rw [exec_next_eq_with_results (hx.symm.trans h)]
  · rw [raise_eq_next.mp (hx.symm.trans h), State.finish_doneIe]

/-- Settles O51: a completion sets DONE and keeps the enable, and each of the two writes clears one factor of `irq`. -/
theorem interruptLineFollowsDoneAndItsEnable : Obligations.InterruptLineFollowsDoneAndItsEnable := by
  refine ⟨State.irq_iff, fun s t hb hn h => ?completion, fun s t d be rest hin hd h => ?acknowledged,
    fun s t d be rest hin hd h => ?masked⟩
  case completion =>
    have hx : sequencerStep s.popInput = .next t := (step_of_sequencerNext hb hn).symm.trans h
    rw [State.irq, sequencerStep_done hx, sequencerStep_doneIe hx, Bool.true_and, State.popInput_doneIe]
  case acknowledged =>
    injection (step_of_host hin).symm.trans h with h
    have write : hostTransaction (.write 0x002 d be) s.popInput = s.popInput.ackStatus d :=
      s.popInput.busWrite_status d be
    rw [← h, write, State.irq, State.ackStatus_done, hd, Bool.not_true, Bool.and_false,
      Bool.false_and]
  case masked =>
    injection (step_of_host hin).symm.trans h with h
    have write : hostTransaction (.write 0x003 d be) s.popInput = s.popInput.setDoneIe d :=
      s.popInput.busWrite_irqEn d be
    rw [← h, write, State.irq, State.setDoneIe_doneIe, hd, Bool.and_false]
    exact ⟨rfl, rfl⟩

end Sys2Proof.Machine
end

section
/-! PROOFS. Reset (spec/70_reset_and_hazards.md R701 to R703): the reset state's registers and its invariant, and reset from any
state; and that every accepted command completes unless reset comes first (R714). -/

namespace Sys2Proof.Machine

/-! ## The reset state (R701, R702) -/

/-- With nothing written, every byte of DBUF is its free draw (R702). -/
theorem State.memRead_of_dbuf_nil {s : State} (h : s.dbuf = []) (a : Nat) :
    s.memRead a = Config.dbufPowerOn s.dbufEpoch a := by
  rw [State.memRead, h]
  rfl

section
variable (i : Fin 16)

theorem getElem_reset_regS : State.reset.regS[i] = 0 := Vector.getElem_replicate i.isLt
theorem getElem_reset_regW : State.reset.regW[i] = 0 := Vector.getElem_replicate i.isLt
theorem getElem_reset_regOut : State.reset.regOut[i] = 0 := Vector.getElem_replicate i.isLt

end

theorem getElem_reset_keyBytes (i : Fin 32) : State.reset.keyBytes[i] = 0 := Vector.getElem_replicate i.isLt
theorem getElem_reset_nonceBytes (i : Fin 12) : State.reset.nonceBytes[i] = 0 := Vector.getElem_replicate i.isLt

/-- Settles O52: the arrays are copies of 0, ID is hard-wired, DBUF has nothing written, and the rest is the definition's. -/
theorem resetStateHoldsTheRuleValues : Obligations.ResetStateHoldsTheRuleValues := by
  refine ⟨getElem_reset_keyBytes, getElem_reset_nonceBytes, rfl, rfl, rfl, rfl, rfl, rfl, rfl, rfl,
    fun i => ⟨getElem_reset_regS i, getElem_reset_regW i, getElem_reset_regOut i⟩,
    rfl, by decide, rfl, rfl, rfl, ?id, State.memRead_of_dbuf_nil rfl⟩
  case id => exact State.reset.busRead_of_lt_four (A := 0) (by decide)

/-- Settles O58: an idle core with nothing written in DBUF, and ERR fits the word 0 in CMD, which is NOP's. -/
theorem invariantHoldsAfterReset : Obligations.InvariantHoldsAfterReset := by
  have legal : Config.defaultParams.wf = true := by decide
  have buffer : State.reset.dbufOk := ⟨List.Pairwise.nil, fun _ written => absurd written List.not_mem_nil⟩
  have fitsNop : errFitsWord .ok 0 = true := by decide
  exact ⟨legal, buffer, fun running => absurd running Bool.false_ne_true, fun _ => fitsNop⟩

/-! ## Reset from any state (R703) -/

/-- Settles O53: the step of reset is `resetCore`, which takes every register from the reset state. -/
theorem resetAbortsAndRestoresEveryRegister : Obligations.ResetAbortsAndRestoresEveryRegister := by
  intro s rest hin
  refine ⟨s.popInput.resetCore, step_of_reset hin, rfl, rfl, rfl, rfl, rfl, rfl, rfl, rfl, rfl, rfl, rfl, rfl, rfl, rfl,
    getElem_reset_keyBytes, getElem_reset_nonceBytes,
    fun i => ⟨getElem_reset_regS i, getElem_reset_regW i, getElem_reset_regOut i⟩,
    State.memRead_of_dbuf_nil rfl, rfl, ?inputs⟩
  case inputs => rw [State.resetCore_inputs, State.popInput_inputs, hin, List.tail_cons]

/-! ## Every accepted command completes (R714) -/

/-- CMD keeps the completed word, legal or not (R115, R605). -/
theorem sequencerStep_cmd {s t : State} (h : sequencerStep s = .next t) : t.cmd = s.cmd := by
  obtain ⟨i, -, hx⟩ | ⟨why, -, hx⟩ := sequencerStep_cases s
  · rw [exec_next_eq_with_results (hx.symm.trans h)]
  · rw [raise_eq_next.mp (hx.symm.trans h), State.finish_cmd]

/-- The sequencer's turn completes a running command in one step. -/
theorem step_completes {s : State} (hb : s.busy = true) (hn : s.sequencerNext = true) :
    ∃ t, step s = .next t ∧ t.busy = false ∧ t.done = true ∧ t.cmd = s.cmd := by
  obtain ⟨t, hx, idle, done, -⟩ := sequencerStep_precise s.popInput
  exact ⟨t, (step_of_sequencerNext hb hn).trans hx, idle, done, sequencerStep_cmd (s := s.popInput) hx⟩

/-- A host transaction leaves a running command running, with the same word in CMD, and is taken off `inputs`. -/
theorem step_of_host_keeps_command {s : State} (hb : s.busy = true) {tr : Transaction} {rest : List Event}
    (hin : s.inputs = .host tr :: rest) :
    ∃ u, step s = .next u ∧ u.busy = true ∧ u.cmd = s.cmd ∧ u.inputs = rest := by
  refine ⟨_, step_of_host hin, ?_⟩
  rw [hostTransaction_of_busy (s := s.popInput) hb tr]
  exact ⟨hb, rfl, by rw [State.popInput_inputs, hin, List.tail_cons]⟩

/-- Settles O55, by induction on the host transactions that come before the sequencer's turn or the end of `inputs`. -/
theorem everyAcceptedCommandCompletes : Obligations.EveryAcceptedCommandCompletes := by
  intro s hb noReset
  induction hin : s.inputs generalizing s with
  | nil =>
    obtain ⟨t, hx, completed⟩ := step_completes hb (s.sequencerNext_iff.mpr (.inl hin))
    exact ⟨1, t, Nat.le_add_left 1 _, run_succ_of_step Sys2Proof.core hx 0, completed⟩
  | cons e rest ih =>
    rw [hin] at noReset
    cases e with
    | reset => exact absurd List.mem_cons_self noReset
    | sequencer =>
      obtain ⟨t, hx, completed⟩ := step_completes hb (s.sequencerNext_iff.mpr (.inr ⟨rest, hin⟩))
      exact ⟨1, t, Nat.le_add_left 1 _, run_succ_of_step Sys2Proof.core hx 0, completed⟩
    | host tr =>
      obtain ⟨u, hx, running, cmd, remaining⟩ := step_of_host_keeps_command hb hin
      have noReset' : Event.reset ∉ u.inputs := remaining ▸ fun later => noReset (List.mem_cons_of_mem _ later)
      obtain ⟨k, t, bound, runs, idle, done, same⟩ := ih u running noReset' remaining
      exact ⟨k + 1, t, Nat.succ_le_succ bound, (run_succ_of_step Sys2Proof.core hx k).trans runs, idle, done,
        same.trans cmd⟩

end Sys2Proof.Machine
end
